-- ==== Sys2Proof/Word.lean ====
section
/-!
DEFINITION. The data types of the block: levels and words, the pins, the motor states, the directions, and what
travels between host, controller, output stage and platform. Types only: every computation over them stands in
Decode.lean or in a file of Machine/.
-/

namespace Sys2Proof

/-- A pin level, one bit: `true` is 1, "high"; `false` is 0, "low" (00_scope.md section 7, R103). -/
abbrev Level := Bool

/-- A host command word, format CMD (R47). -/
abbrev CmdWord := BitVec 2

/-- A pin-write request word, format PINW (R49). -/
abbrev PinwWord := BitVec 3

/-- The four output pins, named as the pin map names them (R31): addresses 0, 1, 2, 3. -/
inductive Pin where
  | a
  | b
  | c
  | d
  deriving DecidableEq, Repr, Inhabited

/-- The four one-bit locations of the pin space, and also a 4-tuple of levels in the order (A, B, C, D)
(R30, R32). -/
structure Pins where
  a : Level
  b : Level
  c : Level
  d : Level
  deriving DecidableEq, Repr, Inhabited

/-- The nine MotorStates, labelled 0 to 8 (R11): `s0` is the sentinel, `s1` to `s8` are the traversal cycle.
The codes 9 to 15 of R12 cannot be written down in this type. -/
inductive MotorState where
  | s0
  | s1
  | s2
  | s3
  | s4
  | s5
  | s6
  | s7
  | s8
  deriving DecidableEq, Repr, Inhabited

/-- The two Directions (R13). -/
inductive Direction where
  | forward
  | reverse
  deriving DecidableEq, Repr, Inhabited

/-- The two interfaces a word can arrive on; the interface, not the word, tells the format (R53). -/
inductive Iface where
  | cmd
  | pinw
  deriving DecidableEq, Repr

/-- A word as it is fetched: a host command word or a pin-write request word. -/
inductive FetchWord where
  | cmd (w : CmdWord)
  | pinw (w : PinwWord)
  deriving DecidableEq, Repr

/-- The open parameter `Reason` of R7 (D27, U2): which tokens besides 0 are values of the type of the failure reasons.
It has no body, so no proof can tell how many reasons there are; "the one-element type" is one of its instances. -/
opaque Config.isReason : Nat → Bool

/-- The opaque failure reason (R7 `Reason`, R104): a token of the open type, which the block only carries.
DESIGN CHOICE (log entry 4): the values are numbered by naturals, 0 being one of them. -/
structure Reason where
  token : Nat
  isReason : token = 0 ∨ Config.isReason token = true
  deriving DecidableEq, Repr

/-- The one reason that every instance of `Reason` is known to have: a failure carries a reason, so the type is not
empty. -/
def Reason.first : Reason :=
  ⟨0, .inl rfl⟩

/-- The result of one pin-write request (R49, R50, R101). -/
inductive PinResult where
  | ok
  | fail (reason : Reason)
  deriving DecidableEq, Repr

/-- One pin write with its outcome, an event of the history (R40). -/
structure Event where
  pin : Pin
  level : Level
  outcome : PinResult
  deriving DecidableEq, Repr

/-- The response to a host command (R50, R85). -/
inductive Response where
  | ok
  | pinWriteError (reason : Reason)
  deriving DecidableEq, Repr

/-- The platform's answer to one pin-write request (R104, R105; the ports `pad_fail`, `pad_reason` of R45). A
failing answer also carries the level the failed pin is left at, which the spec draws at each failure. -/
inductive PadAnswer where
  | ok
  | fail (reason : Reason) (level : Level)
  deriving DecidableEq, Repr

/-- The commands that write pins, the `op` of SEQ (R15). -/
inductive PinOp where
  | step
  | stop
  deriving DecidableEq, Repr

/-- SEQ, the command in progress (R15): `busy op k t` says that the next write is pin `k` with level `t[k]`. -/
inductive Seq where
  | idle
  | busy (op : PinOp) (k : Pin) (t : Pins)
  deriving DecidableEq, Repr

/-- What the host drives at one active clock edge: the ports `rst`, `cmd_valid`, `cmd` (R45). -/
structure HostEdge where
  rst : Bool
  cmdValid : Bool
  cmd : CmdWord
  deriving DecidableEq, Repr

/-- R8 allows two levels of description: a whole command as one step, or each pin write as a step of its own.
DESIGN CHOICE (log entry 1): a run picks one and keeps it. -/
inductive Grain where
  | command
  | pinWrite
  deriving DecidableEq, Repr

end Sys2Proof
end

