-- ==== Sys2Proof/Syntax.lean ====
section
/-!
DEFINITION. The instruction set: the three host commands and the two pin-write requests (R1), one constructor per
row of spec/opcode_table.json.
-/

namespace Sys2Proof

/-- One constructor per row of the opcode table. STEP, STOP and SET_DIRECTION arrive from the host in format CMD;
PIN_SET_LOW and PIN_SET_HIGH go from the controller to the output stage in format PINW (R47, R49). -/
inductive Instr where
  /-- STEP, no operand (R81). -/
  | step
  /-- STOP, no operand (R83). -/
  | stop
  /-- SET_DIRECTION d (R82). -/
  | setDirection (d : Direction)
  /-- PIN_SET_LOW i (R102). -/
  | pinSetLow (sel : Pin)
  /-- PIN_SET_HIGH i (R101). -/
  | pinSetHigh (sel : Pin)
  deriving DecidableEq, Repr

end Sys2Proof
end

