-- ==== Sys2Proof/WellFormed.lean ====
section
/-!
DEFINITION. Which instruction may arrive on which interface. The operand types hold legal operands only (every
pin address and every direction bit is legal, R31, R48, R52), so what is left to check is the interface: the host
writes no pin-write request (R54, R108) and the controller sends no host command to the output stage (R100).
-/

namespace Sys2Proof

/-- The interface an instruction's format belongs to (R47, R49, R53). -/
def Instr.iface : Instr → Iface
  | .step => .cmd
  | .stop => .cmd
  | .setDirection _ => .cmd
  | .pinSetLow _ => .pinw
  | .pinSetHigh _ => .pinw

/-- An instruction is well formed on an interface when its format is that interface's. -/
def Instr.wellFormedOn (f : Iface) (i : Instr) : Bool :=
  decide (i.iface = f)

/-- A host program is a list of host commands (R54): pin-write requests are "never written by a host". -/
def wellFormedProgram (p : List Instr) : Bool :=
  p.all (Instr.wellFormedOn .cmd)

end Sys2Proof
end

