-- ==== Sys2Proof/Decode.lean ====
section
/-!
DEFINITION. Words and instructions: the operand codes, the decoder, the encoder (30_encoding.md, opcode_table.json),
and the codes of the observation outputs. Decoding of a word of its format is total (R51); a number that has bits
outside its format is rejected by name.
-/

namespace Sys2Proof

/-- The two-bit address of a pin (R31). -/
def Pin.addr : Pin → BitVec 2
  | .a => 0#2
  | .b => 1#2
  | .c => 2#2
  | .d => 3#2

/-- The pin at a two-bit address; every address is implemented (R31). -/
def Pin.ofAddr (sel : BitVec 2) : Pin :=
  if sel = 0#2 then .a else if sel = 1#2 then .b else if sel = 2#2 then .c else .d

/-- The direction bit: Forward = 0, Reverse = 1 (R13, R48). -/
def Direction.bit : Direction → Bool
  | .forward => false
  | .reverse => true

/-- The direction a bit stands for (R48). -/
def Direction.ofBit (x : Bool) : Direction :=
  if x then .reverse else .forward

/-- The label of a MotorState, 0 to 8 (R11). -/
def MotorState.label : MotorState → Nat
  | .s0 => 0
  | .s1 => 1
  | .s2 => 2
  | .s3 => 3
  | .s4 => 4
  | .s5 => 5
  | .s6 => 6
  | .s7 => 7
  | .s8 => 8

/-- The 4-bit code of STATE: the label, zero-extended (R11). -/
def MotorState.code (m : MotorState) : BitVec 4 :=
  BitVec.ofNat 4 m.label

/-- The MotorState a 4-bit code names; the codes 9 to 15 name none and are refused (R12). -/
def MotorState.ofCode? (w : BitVec 4) : Option MotorState :=
  match w.toNat with
  | 0 => some .s0
  | 1 => some .s1
  | 2 => some .s2
  | 3 => some .s3
  | 4 => some .s4
  | 5 => some .s5
  | 6 => some .s6
  | 7 => some .s7
  | 8 => some .s8
  | _ => none

/-- The packed code `8a + 4b + 2c + d` of a tuple of levels (00_scope.md section 7). -/
def Pins.code4 (t : Pins) : Nat :=
  8 * t.a.toNat + 4 * t.b.toNat + 2 * t.c.toNat + t.d.toNat

/-- Decode a host command word: `cls` = bit 1 selects SET_DIRECTION with d = bit 0, else bit 0 selects STEP (0) or
STOP (1) (R47, R51). -/
def decodeCmd (w : CmdWord) : Instr :=
  if w.getLsbD 1 then .setDirection (Direction.ofBit (w.getLsbD 0))
  else if w.getLsbD 0 then .stop
  else .step

/-- Decode a pin-write request word: `sel` = bits 2:1, `lvl` = bit 0 (R49, R51). -/
def decodePinw (w : PinwWord) : Instr :=
  if w.getLsbD 0 then .pinSetHigh (Pin.ofAddr (w.extractLsb' 1 2))
  else .pinSetLow (Pin.ofAddr (w.extractLsb' 1 2))

/-- Decode a fetched word. Total: "a decoder never answers \"invalid\"" (R51). -/
def decode : FetchWord → Instr
  | .cmd w => decodeCmd w
  | .pinw w => decodePinw w

/-- Why a number is no word of an interface. -/
inductive DecodeError where
  /-- the number has a bit set above the two bits of a CMD word (R47, R53) -/
  | cmdWordTooWide
  /-- the number has a bit set above the three bits of a PINW word (R49, R53) -/
  | pinwWordTooWide
  deriving DecidableEq, Repr

/-- Read a raw number as a word of an interface: total, rejecting by name what has bits outside the format. -/
def readWord (f : Iface) (w : Nat) : Except DecodeError FetchWord :=
  match f with
  | .cmd => if w < 4 then .ok (.cmd (BitVec.ofNat 2 w)) else .error .cmdWordTooWide
  | .pinw => if w < 8 then .ok (.pinw (BitVec.ofNat 3 w)) else .error .pinwWordTooWide

/-- Decode a raw number that arrives on an interface. -/
def decodeOn (f : Iface) (w : Nat) : Except DecodeError Instr :=
  (readWord f w).map decode

/-- The word of a pin-write request, `{i[1:0], v}` (R49). -/
def pinwWord (i : Pin) (v : Level) : PinwWord :=
  i.addr ++ BitVec.ofBool v

/-- The encoder, from the tables of R47 and R49. -/
def encode : Instr → FetchWord
  | .step => .cmd 0b00#2
  | .stop => .cmd 0b01#2
  | .setDirection d => .cmd (1#1 ++ BitVec.ofBool d.bit)
  | .pinSetLow sel => .pinw (pinwWord sel false)
  | .pinSetHigh sel => .pinw (pinwWord sel true)

/-- The number of bits of a word's format: 2 for CMD, 3 for PINW (R53). -/
def FetchWord.width : FetchWord → Nat
  | .cmd _ => 2
  | .pinw _ => 3

/-- The number a fetched word stands for. -/
def FetchWord.toNat : FetchWord → Nat
  | .cmd w => w.toNat
  | .pinw w => w.toNat

/-- A word as the opcode table numbers it, `nbits` wide. Two bits are a CMD word and three a PINW word. A width
that is neither (a whole byte) does not say which interface the word arrives on, and only the interface tells the
formats apart (R53): DESIGN CHOICE (log entry 9), a number that fits a CMD word is read as one, any other number
that fits a PINW word as a PINW word. -/
def tableWord (nbits w : Nat) : Option FetchWord :=
  if nbits = 2 then (readWord .cmd w).toOption
  else if nbits = 3 then (readWord .pinw w).toOption
  else if w < 4 then (readWord .cmd w).toOption
  else (readWord .pinw w).toOption

/-- The instruction the decoder reads from a word numbered as spec/opcode_table.json numbers it. -/
def decodeTableWord (nbits w : Nat) : Option Instr :=
  (tableWord nbits w).map decode

end Sys2Proof
end

