-- ==== Sys2Proof/Machine/Operands.lean ====
section
/-!
DEFINITION. The operand forms: the one a host command has, SET_DIRECTION's `d` (R48), and the one a request has, the
pin address `sel` (R49), with the pin space it addresses (R30) and the order in which a commit walks it (R80).
-/

namespace Sys2Proof.Machine

/-- The element of a tuple for a pin, `t[i]` (00_scope.md section 7). -/
def readPin (t : Pins) : Pin → Level
  | .a => t.a
  | .b => t.b
  | .c => t.c
  | .d => t.d

/-- The pin space after a write of one bit to one location; no other location changes (R34, R100). -/
def writePin (t : Pins) (i : Pin) (v : Level) : Pins :=
  match i with
  | .a => { t with a := v }
  | .b => { t with b := v }
  | .c => { t with c := v }
  | .d => { t with d := v }

/-- The four pins at one level; at low it is the tuple STOP commits (R83). -/
def allPins (v : Level) : Pins :=
  { a := v, b := v, c := v, d := v }

/-- The pins in the order in which a commit writes them: A, B, C, D (R80). -/
def writeOrder : List Pin :=
  [.a, .b, .c, .d]

/-- The pin a commit writes after this one, if any (R80). -/
def pinAfter : Pin → Option Pin
  | .a => some .b
  | .b => some .c
  | .c => some .d
  | .d => none

/-- How many pins a commit writes before this one: its address as a number (R31, R80). -/
def pinIndex (i : Pin) : Nat :=
  i.addr.toNat

end Sys2Proof.Machine
end

