-- ==== Sys2Proof/Config.lean ====
section
/-!
DEFINITION. What the spec leaves open: the parameters and free values of R7, but for the type `Reason`, which the data
types of Word.lean need (`Config.isReason` there). Each opaque constant has no body, so no proof can see what it
answers, and a claim holds whatever it is. State's draw counter makes every draw a fresh one.
-/

namespace Sys2Proof

/-- `PinFail` (R7, R104): does the platform fail this pin write? Arguments: the number of the draw, the history so
far, the pin, the level. It sees nothing of the controller (not STATE, not DIR). The number of the draw is the
model's own argument (log entry 3): it only allows more platforms than the spec's three arguments do. -/
opaque Config.pinFail : Nat → List Event → Pin → Level → Bool

/-- The token drawn for the reason of the n-th pin-write request, if it fails (R104, `Reason` of R7). -/
opaque Config.failToken : Nat → Nat

/-- The failure reason drawn at the n-th pin-write request, if it fails: the drawn token where it is one of the open
type, the first reason otherwise, so a draw can be any value of the type and nothing else (R104, R7). -/
def Config.failReason (n : Nat) : Reason :=
  if h : Config.isReason (Config.failToken n) = true then ⟨Config.failToken n, .inr h⟩ else Reason.first

/-- `FailLevel` (R7, R105): the level the pin is left at by the n-th pin-write request, if it fails. -/
opaque Config.failLevel : Nat → Level

/-- The answer drawn for request number `n`. -/
def Config.drawnAnswer (n : Nat) (history : List Event) (i : Pin) (v : Level) : PadAnswer :=
  if Config.pinFail n history i v then .fail (Config.failReason n) (Config.failLevel n) else .ok

/-- The default of the parameter `PIN_RESET` (R7, R14, R130): all four pins low. DESIGN CHOICE of the spec (D12)
and of the model (log entry 5); statements about reset hold for every `PIN_RESET`. -/
def Config.pinResetDefault : Pins :=
  { a := false, b := false, c := false, d := false }

end Sys2Proof
end

