-- ==== Sys2Proof/Machine/State.lean ====
section
/-!
DEFINITION. The state of the machine (10_state.md R10) as plain data, the reasons a step can stop, and the state after
reset (70_reset_and_hazards.md R130).
-/

namespace Sys2Proof.Machine

/-- The faults of the machine: none. The one error of the block, PinWriteError, is an ordinary response after
which the block goes on (R110, R114, R115); there is no other exception (R111) and no stuck state (R148). -/
inductive Fault where
  deriving DecidableEq, Repr

/-- The reasons to give an instruction no meaning. -/
inductive Refusal where
  /-- raised by `exec` for an instruction that has no meaning yet (safe); every instruction has one, so nothing
  raises it -/
  | notModelled (mnemonic : String)
  deriving DecidableEq, Repr

/-- What surrounds the block. None of it is state of the block (R20): the host's and the platform's inputs and the
parameters of a run stand here because a step has no other argument. No command can change a parameter. -/
structure Env where
  /-- what the host will drive at the coming active clock edges, next edge first; when the list is used up the host
  offers nothing more (R45, R150 "abandon"; log entry 2) -/
  inputs : List HostEdge
  /-- the platform's answers to the coming pin writes, next one first; when the list is used up the answer is drawn
  from Config's free values (R104; log entry 3) -/
  pads : List PadAnswer
  /-- how many pin-write requests have been answered, over resets too: the number of the next draw (log entry 3) -/
  draws : Nat
  /-- the parameter `PIN_RESET` (R7, R14, R130; log entry 5) -/
  pinReset : Pins
  /-- whether a step is a whole command or one pin write (R8; log entry 1) -/
  grain : Grain
  deriving DecidableEq, Repr

/-- The state: the block's registers (R10), what stands on its response ports (R45), the bookkeeping of a run
(R40, R149), and what surrounds the block. -/
structure State where
  /-- `STATE`, the current MotorState (R11) -/
  motorState : MotorState
  /-- `DIR`, the current Direction (R13) -/
  dir : Direction
  /-- `PIN[0..3]`, the levels the output stage holds (R14); pad i of `pin_o` carries it (R107) -/
  pin : Pins
  /-- `SEQ`, the command in progress (R15) -/
  seq : Seq
  /-- the event history since reset, oldest first (R40) -/
  history : List Event
  /-- `rsp_valid`, `rsp_err`, `rsp_reason`: the response given at the last edge, if one was (R45, R46, R50) -/
  rsp : Option Response
  /-- the responses the host has received since reset, oldest first (R149) -/
  responses : List Response
  /-- `pw_done`, `pw_fail`, `pw_reason`: the result of the last pin-write request of the last step, if there was one
  (R45, R50) -/
  pwRsp : Option PinResult
  /-- the model's own: the block's surroundings -/
  env : Env
  deriving DecidableEq, Repr

/-- The machine right after reset on a platform whose pins then hold `p` (R130): STATE 0, Forward, idle, the pins
at `PIN_RESET`, an empty history, no response. Nothing is offered yet, and every platform answer is a free value. -/
def State.resetWith (p : Pins) : State :=
  { motorState := .s0
    dir := .forward
    pin := p
    seq := .idle
    history := []
    rsp := none
    responses := []
    pwRsp := none
    env := { inputs := [], pads := [], draws := 0, pinReset := p, grain := .command } }

/-- The machine right after reset, with the spec's default for `PIN_RESET` (R130, D12; log entry 5). -/
def State.reset : State :=
  State.resetWith Config.pinResetDefault

end Sys2Proof.Machine
end

