-- ==== Sys2Proof/Machine/Flags.lean ====
section
/-!
DEFINITION. Status. The block has no stored flags and no condition codes (R18); the only status a command or a request
produces is its result, handed over on the response ports (R50).
-/

namespace Sys2Proof.Machine

/-- `rsp_err` of a response: 0 is OK, 1 is PinWriteError (R50, R110). -/
def rspErr : Response → Bool
  | .ok => false
  | .pinWriteError _ => true

/-- `rsp_reason` of a response: there is one only with `rsp_err` = 1 (R50). -/
def rspReason : Response → Option Reason
  | .ok => none
  | .pinWriteError reason => some reason

/-- `pw_fail` of a request's result: 0 is ok, 1 is fail (R50). -/
def pwFail : PinResult → Bool
  | .ok => false
  | .fail _ => true

/-- `pw_reason` of a request's result (R50). -/
def pwReason : PinResult → Option Reason
  | .ok => none
  | .fail reason => some reason

/-- The result of a request that the platform answered so (R101, R102). -/
def resultOf : PadAnswer → PinResult
  | .ok => .ok
  | .fail reason _ => .fail reason

/-- The level the pin holds after a request for level `v` that the platform answered so: the requested one, or after
a failure the drawn one (R101, R102, R105). -/
def levelAfter (v : Level) : PadAnswer → Level
  | .ok => v
  | .fail _ level => level

end Sys2Proof.Machine
end

