-- ==== Sys2Proof/Machine/StateTable.lean ====
section
/-!
DEFINITION. The State Table (40_state_table.md): the pure functions `pattern`, `successor`, `predecessor`, each as the
table the spec gives.
-/

namespace Sys2Proof.Machine

/-- The levels of a MotorState for the pins (A, B, C, D) (R65). -/
def pattern : MotorState → Pins
  | .s0 => ⟨false, false, false, false⟩
  | .s1 => ⟨false, false, false, true⟩
  | .s2 => ⟨false, false, true, true⟩
  | .s3 => ⟨false, false, true, false⟩
  | .s4 => ⟨false, true, true, false⟩
  | .s5 => ⟨false, true, false, false⟩
  | .s6 => ⟨true, true, false, false⟩
  | .s7 => ⟨true, false, false, false⟩
  | .s8 => ⟨true, false, false, true⟩

/-- The next state going Forward (R66). -/
def successor : MotorState → MotorState
  | .s0 => .s1
  | .s1 => .s2
  | .s2 => .s3
  | .s3 => .s4
  | .s4 => .s5
  | .s5 => .s6
  | .s6 => .s7
  | .s7 => .s8
  | .s8 => .s1

/-- The next state going Reverse (R67). -/
def predecessor : MotorState → MotorState
  | .s0 => .s8
  | .s1 => .s8
  | .s2 => .s1
  | .s3 => .s2
  | .s4 => .s3
  | .s5 => .s4
  | .s6 => .s5
  | .s7 => .s6
  | .s8 => .s7

/-- The next state in a direction, the first line of STEP (R81). -/
def nextState (d : Direction) (m : MotorState) : MotorState :=
  match d with
  | .forward => successor m
  | .reverse => predecessor m

end Sys2Proof.Machine
end

