-- ==== Sys2Proof/Machine/Ops.lean ====
section
/-!
DEFINITION. The named operations over the state that the meanings share: the register writes, the pin write and its
failure, the four-write procedure `Commit`, responding, raising PinWriteError, reset.
There is no return from an exception beside the raise: nothing is saved and nothing is entered, so there is nothing
to return from (R114, R115).
-/

namespace Sys2Proof.Machine

/-- `STATE <- m` (R11). -/
def State.setMotorState (m : MotorState) (s : State) : State :=
  { s with motorState := m }

/-- `DIR <- d` (R13). -/
def State.setDir (d : Direction) (s : State) : State :=
  { s with dir := d }

/-- `SEQ <- q` (R15). -/
def State.setSeq (q : Seq) (s : State) : State :=
  { s with seq := q }

/-- The platform's answer to the `n`-th request from now, if that request is for level `v` on pin `i` and the history
is then `h` (R104). -/
def State.answer (s : State) (n : Nat) (h : List Event) (i : Pin) (v : Level) : PadAnswer :=
  match s.env.pads[n]? with
  | some x => x
  | none => Config.drawnAnswer (s.env.draws + n) h i v

/-- The platform's answer to the request issued now. -/
def State.padAnswer (s : State) (i : Pin) (v : Level) : PadAnswer :=
  s.answer 0 s.history i v

/-- The surroundings after `n` answered requests: `n` answers used up, nothing else changed (R104). -/
def Env.afterRequests (e : Env) (n : Nat) : Env :=
  { e with pads := e.pads.drop n, draws := e.draws + n }

/-- The effect of one answered request on the pins, the history and the request's result (R101, R102, R105). -/
def State.recordWrite (i : Pin) (v : Level) (x : PadAnswer) (s : State) : State :=
  { s with
    pin := writePin s.pin i (levelAfter v x)
    history := s.history ++ [{ pin := i, level := v, outcome := resultOf x }]
    pwRsp := some (resultOf x)
    env := s.env.afterRequests 1 }

/-- PIN_SET_HIGH i: the request's result and the state after it (R101). -/
def State.pinSetHigh (i : Pin) (s : State) : PinResult × State :=
  let x := s.padAnswer i true
  (resultOf x, s.recordWrite i true x)

/-- PIN_SET_LOW i: the request's result and the state after it (R102). -/
def State.pinSetLow (i : Pin) (s : State) : PinResult × State :=
  let x := s.padAnswer i false
  (resultOf x, s.recordWrite i false x)

/-- `PinWrite(i, v)`: PIN_SET_HIGH i when v = 1 and PIN_SET_LOW i when v = 0 (R103). -/
def State.pinWrite (i : Pin) (v : Level) (s : State) : PinResult × State :=
  if v then s.pinSetHigh i else s.pinSetLow i

/-- The loop of `Commit`: write the listed pins one after the other and stop at the first write that fails (R80).
Answers the reason of the failing write, if one failed, and the state. -/
def State.commitPins (t : Pins) : List Pin → State → Option Reason × State
  | [], s => (none, s)
  | i :: rest, s =>
    match s.pinWrite i (readPin t i) with
    | (.ok, s') => s'.commitPins t rest
    | (.fail reason, s') => (some reason, s')

/-- `Commit(t)` (R80). -/
def State.commit (t : Pins) (s : State) : Option Reason × State :=
  s.commitPins t writeOrder

/-- `respond(...)`: the command is over (SEQ idle) and its response is handed to the host (R46, R50, R15). -/
def State.respond (r : Response) (s : State) : State :=
  { s with seq := .idle, rsp := some r, responses := s.responses ++ [r] }

/-- `raise PinWriteError(reason)`, the taking of the block's one exception (R114). The failing pin has been left at
its drawn level by the write itself, no later write is issued, and no register is restored; what remains is SEQ idle
and the error response with the reason unchanged. Nothing is saved, and there is no vector and no mode. -/
def State.raisePinWriteError (reason : Reason) (s : State) : State :=
  s.respond (.pinWriteError reason)

/-- The end of a command that commits: `respond(OK)`, or the exception its commit raised (R80, R81, R83). -/
def State.conclude (r : Option Reason × State) : State :=
  match r.1 with
  | none => r.2.respond .ok
  | some reason => r.2.raisePinWriteError reason

/-- The reset event (R130, R131, R132): every register at its reset value whatever it held, SEQ idle whatever was in
progress, the pins at `PIN_RESET`, the history empty, no event and no response. The surroundings stay. -/
def State.resetEvent (s : State) : State :=
  { motorState := .s0
    dir := .forward
    pin := s.env.pinReset
    seq := .idle
    history := []
    rsp := none
    responses := []
    pwRsp := none
    env := s.env }

end Sys2Proof.Machine
end

