-- ==== Sys2Proof/Machine/Controller.lean ====
section
/-!
DEFINITION. The Motor Controller (41_motor_controller.md): the meanings of STEP, SET_DIRECTION and STOP, each a whole
command from its acceptance to its response (R8, R84).
-/

namespace Sys2Proof.Machine

/-- The first part of STEP: `STATE <- next`, before any pin write (R81). -/
def State.advance (s : State) : State :=
  s.setMotorState (nextState s.dir s.motorState)

/-- STEP (R81): advance the state, commit its pattern, respond. -/
def execStep (s : State) : Host.Outcome State Fault Refusal :=
  let s1 := s.advance
  .next (State.conclude (s1.commit (pattern s1.motorState)))

/-- STOP (R83): commit four lows, respond. STATE and DIR are neither read nor written. -/
def execStop (s : State) : Host.Outcome State Fault Refusal :=
  .next (State.conclude (s.commit (allPins false)))

/-- SET_DIRECTION d (R82): assign DIR, respond OK. -/
def execSetDirection (d : Direction) (s : State) : Host.Outcome State Fault Refusal :=
  .next ((s.setDir d).respond .ok)

end Sys2Proof.Machine
end

