-- ==== Sys2Proof/Machine/OutputDriver.lean ====
section
/-!
DEFINITION. The output stage (42_gpio_output_driver.md): the meanings of the two pin-write requests.
-/

namespace Sys2Proof.Machine

/-- PIN_SET_LOW i (R102). -/
def execPinSetLow (i : Pin) (s : State) : Host.Outcome State Fault Refusal :=
  .next (s.pinSetLow i).2

/-- PIN_SET_HIGH i (R101). -/
def execPinSetHigh (i : Pin) (s : State) : Host.Outcome State Fault Refusal :=
  .next (s.pinSetHigh i).2

end Sys2Proof.Machine
end

