-- ==== Sys2Proof/Machine/Dispatch.lean ====
section
/-!
DEFINITION. One arm per instruction.
-/

namespace Sys2Proof.Machine

def exec (i : Instr) (s : State) : Host.Outcome State Fault Refusal :=
  match i with
  | .step => Sys2Proof.Machine.execStep s
  | .stop => Sys2Proof.Machine.execStop s
  | .setDirection d => Sys2Proof.Machine.execSetDirection d s
  | .pinSetLow sel => Sys2Proof.Machine.execPinSetLow sel s
  | .pinSetHigh sel => Sys2Proof.Machine.execPinSetHigh sel s

end Sys2Proof.Machine
end

