-- ==== Sys2Proof/Machine/Sequencer.lean ====
section
/-!
DEFINITION. What one step does around an instruction: the host's ports at the edge, the command handshake (R46), the
controller's walk through SEQ (R15), and reset (R130, R131, R133).
-/

namespace Sys2Proof.Machine

/-- An edge at which the host drives nothing: "there is no no-operation command word, idleness is the absence of a
command" (R46). -/
def edgeIdle : HostEdge :=
  { rst := false, cmdValid := false, cmd := 0#2 }

/-- An edge at which the host offers a command word. -/
def edgeOffer (w : CmdWord) : HostEdge :=
  { rst := false, cmdValid := true, cmd := w }

/-- An edge at which the host drives reset. -/
def edgeReset : HostEdge :=
  { rst := true, cmdValid := false, cmd := 0#2 }

/-- What the host drives at the coming edge. -/
def State.edge (s : State) : HostEdge :=
  s.env.inputs.headD edgeIdle

/-- The state as the edge finds it: that edge's inputs are used up, and the responses of the step before have been
on their ports for their one edge (R46). -/
def State.atEdge (s : State) : State :=
  { s with rsp := none, pwRsp := none, env := { s.env with inputs := s.env.inputs.tail } }

/-- The word that is fetched at the coming edge, if one is: while SEQ is busy the controller's next request, and no
command of the host's; while it is idle the command word the host offers (R15, R46). -/
def State.fetch (s : State) : Option FetchWord :=
  match s.seq with
  | .busy _ k t => some (.pinw (pinwWord k (readPin t k)))
  | .idle => if s.edge.cmdValid then some (.cmd s.edge.cmd) else none

/-- The command that SEQ can hold an instruction as: STEP and STOP; nothing else ever makes SEQ busy (R15). -/
def opOf : Instr → Option PinOp
  | .step => some .step
  | .stop => some .stop
  | .setDirection _ => none
  | .pinSetLow _ => none
  | .pinSetHigh _ => none

/-- Accept a command that writes pins and stop before its first write: STEP has advanced STATE, and SEQ is busy at
pin A (R15, R81, R83). -/
def State.openCommand (op : PinOp) (s : State) : State :=
  match op with
  | .step => s.advance.setSeq (.busy .step .a (pattern s.advance.motorState))
  | .stop => s.setSeq (.busy .stop .a (allPins false))

/-- What the controller does when the request for pin `k` has its result: the next pin is due, or the command ends,
with OK after the fourth write and with PinWriteError at a failed one (R15, R80, R114). A request that has not
finished leaves it waiting. -/
def State.requestDone (op : PinOp) (k : Pin) (t : Pins) (s : State) : State :=
  match s.pwRsp with
  | some (.fail reason) => s.raisePinWriteError reason
  | some .ok =>
    match pinAfter k with
    | some k' => s.setSeq (.busy op k' t)
    | none => s.respond .ok
  | none => s

/-- Run the fetched instruction. An idle block runs a host command: whole, or in the pin-write grain up to its first
write (R8). A busy block runs the controller's request, and the controller takes the result. -/
def State.runFetched (i : Instr) (s : State) : Host.Outcome State Fault Refusal :=
  match s.seq with
  | .idle =>
    match s.env.grain, opOf i with
    | .pinWrite, some op => .next (s.openCommand op)
    | .pinWrite, none => exec i s
    | .command, _ => exec i s
  | .busy op k t =>
    match exec i s with
    | .next s' => .next (s'.requestDone op k t)
    | .fault f => .fault f
    | .refused r => .refused r

/-- One step. Reset wins over everything else at the same edge (R113, R131, R133); otherwise what is fetched runs,
and where nothing is fetched nothing happens (R46, R84, R106). -/
def State.tick (s : State) : Host.Outcome State Fault Refusal :=
  if s.edge.rst then .next s.atEdge.resetEvent
  else
    match s.fetch with
    | none => .next s.atEdge
    | some f => s.atEdge.runFetched (decode f)

/-- The state in which the very next step fetches and runs the word `f` whole. A command word: the block is idle, the
grain is the whole command, and the host offers the word at the coming edge. A request word: SEQ is at that request
and the host drives nothing at the coming edge. DESIGN CHOICE (log entry 10). -/
def State.placeWord (f : FetchWord) (s : State) : State :=
  match f with
  | .cmd w =>
    { s with
      seq := .idle
      env := { s.env with inputs := edgeOffer w :: s.env.inputs, grain := .command } }
  | .pinw w =>
    { s with
      seq := .busy (if w.getLsbD 0 then .step else .stop) (Pin.ofAddr (w.extractLsb' 1 2)) (allPins (w.getLsbD 0))
      env := { s.env with inputs := edgeIdle :: s.env.inputs } }

end Sys2Proof.Machine
end

