-- ==== Sys2Proof/Machine/Step.lean ====
section
/-!
DEFINITION. The step function and the placing of a word where the next step fetches it.
-/

namespace Sys2Proof.Machine

/-- One step of the machine. -/
def step (s : State) : Host.Outcome State Fault Refusal :=
  s.tick

/-- `s` with the word `w`, numbered as the opcode table numbers it, placed so that the very next step fetches and runs
exactly it; a number that is no word of the table changes nothing. -/
def State.withFetchWord (s : State) (nbits w : Nat) : State :=
  match tableWord nbits w with
  | some f => s.placeWord f
  | none => s

end Sys2Proof.Machine
end

