-- ==== Sys2Proof/Machine/Listing.lean ====
section
/-!
DEFINITION. The listing notation (30_encoding.md R54, R55): the text of each instruction, the pseudo-instructions, and a
listing as what the host drives, one line after the other.
-/

namespace Sys2Proof.Machine

/-- The letter of a pin in a listing (R54). -/
def pinText : Pin → String
  | .a => "a"
  | .b => "b"
  | .c => "c"
  | .d => "d"

/-- The text of an instruction (R54). -/
def textOf : Instr → String
  | .step => "step"
  | .stop => "stop"
  | .setDirection .forward => "set_direction forward"
  | .setDirection .reverse => "set_direction reverse"
  | .pinSetLow sel => "pin_set_low " ++ pinText sel
  | .pinSetHigh sel => "pin_set_high " ++ pinText sel

/-- Every instruction, each once. -/
def allInstrs : List Instr :=
  [.step, .stop, .setDirection .forward, .setDirection .reverse]
    ++ writeOrder.map .pinSetLow ++ writeOrder.map .pinSetHigh

/-- The instruction a line of text stands for. -/
def instrOfText? (line : String) : Option Instr :=
  allInstrs.find? fun i => textOf i == line

/-- A line of a listing: a host command, a pseudo-instruction, or the mark of the reset event (R54, R55). -/
inductive Line where
  | step
  | stop
  | setDirection (d : Direction)
  /-- `fwd` -/
  | fwd
  /-- `rev` -/
  | rev
  /-- `step n`, "`step` written n times" -/
  | steps (n : Nat)
  /-- `reset`: "`rst` = 1 for one edge" -/
  | reset
  deriving DecidableEq, Repr

/-- The offer of a host command, as its word. -/
def offerOf (i : Instr) : List HostEdge :=
  match encode i with
  | .cmd w => [edgeOffer w]
  | .pinw _ => []

/-- What the host drives for a line (R55). -/
def expandLine : Line → List HostEdge
  | .step => offerOf .step
  | .stop => offerOf .stop
  | .setDirection d => offerOf (.setDirection d)
  | .fwd => offerOf (.setDirection .forward)
  | .rev => offerOf (.setDirection .reverse)
  | .steps n => (List.replicate n (offerOf .step)).flatten
  | .reset => [edgeReset]

/-- What the host drives for a whole listing. With a whole command a step, each command is offered after the response
of the one before (R54, R149). -/
def expandListing (p : List Line) : List HostEdge :=
  (p.map expandLine).flatten

/-- The state with a listing as what the host is going to drive next. -/
def State.load (p : List Line) (s : State) : State :=
  { s with env := { s.env with inputs := expandListing p } }

end Sys2Proof.Machine
end

