-- ==== Sys2Proof/Machine/Ports.lean ====
section
/-!
DEFINITION. The ports of the block (R45) as functions of the state. An output that is "meaningful only while" another
port is 1 has no value otherwise (DESIGN CHOICE, log entry 13).
-/

namespace Sys2Proof.Machine

/-- `cmd_ready`: 1 exactly when SEQ = idle and `rst` = 0. -/
def cmdReady (s : State) : Bool :=
  decide (s.seq = .idle) && !s.edge.rst

/-- A command is accepted at the coming edge when `cmd_valid` = 1, `cmd_ready` = 1 and `rst` = 0 (R46). -/
def accepts (s : State) : Bool :=
  s.edge.cmdValid && cmdReady s

/-- `rsp_valid`. -/
def rspValidO (s : State) : Bool :=
  s.rsp.isSome

/-- `rsp_err`, while `rsp_valid` = 1. -/
def rspErrO (s : State) : Option Bool :=
  s.rsp.map rspErr

/-- `rsp_reason`, while `rsp_valid` = 1 and `rsp_err` = 1. -/
def rspReasonO (s : State) : Option Reason :=
  s.rsp.bind rspReason

/-- `pin_o`: wire i carries `PIN[i]` at all times (R107). -/
def pinO (s : State) (i : Pin) : Level :=
  readPin s.pin i

/-- `state_o` (R19). -/
def stateO (s : State) : BitVec 4 :=
  s.motorState.code

/-- `dir_o` (R19). -/
def dirO (s : State) : Bool :=
  s.dir.bit

/-- `pw_valid` and `pw`: the request the controller offers, while SEQ is busy. DESIGN CHOICE (log entry 18): `pw_valid`
does not depend on `rst`. R45 says only that "a pin-write request is offered" and gates no port but `cmd_ready` by
`rst`, so whether the port is still 1 at an edge with `rst` = 1 is the model's answer and not the spec's. The request
is not issued at such an edge either way (R131). -/
def pwO (s : State) : Option PinwWord :=
  match s.seq with
  | .idle => none
  | .busy _ k t => some (pinwWord k (readPin t k))

/-- `pw_done`. -/
def pwDoneO (s : State) : Bool :=
  s.pwRsp.isSome

/-- `pw_fail`, with `pw_done`. -/
def pwFailO (s : State) : Option Bool :=
  s.pwRsp.map pwFail

/-- `pw_reason`, with `pw_done` and `pw_fail` = 1. -/
def pwReasonO (s : State) : Option Reason :=
  s.pwRsp.bind pwReason

end Sys2Proof.Machine
end

