-- ==== Sys2Proof/Safety.lean ====
section
/-!
DEFINITION. The terms the claims are stated in: what the platform answers to the writes of one commit, what is accepted
in a run, renaming the failure reasons, and the invariants that say a state of the block is a sound one.
-/

namespace Sys2Proof.Machine

/-- The events of the first `n` writes of a commit of `t` when they succeed, in the order of issue (R40, R80). -/
def okEvents (t : Pins) (n : Nat) : List Event :=
  (writeOrder.take n).map fun i => { pin := i, level := readPin t i, outcome := .ok }

/-- The platform's answer to the write of pin `i` in a commit of `t` that starts in `s`, the writes before it having
succeeded (R80, R104). -/
def State.commitAnswer (s : State) (t : Pins) (i : Pin) : PadAnswer :=
  s.answer (pinIndex i) (s.history ++ okEvents t (pinIndex i)) i (readPin t i)

/-- "No pin write fails" (R104), for the four writes of a commit of `t` that starts in `s`. -/
def State.writesSucceed (s : State) (t : Pins) : Prop :=
  ∀ i, s.commitAnswer t i = .ok

/-- The first failing write of a commit of `t` that starts in `s` is the one to pin `i`; it fails with `reason` and
leaves the pin at `level` (R80, R105). -/
def State.failsFirstAt (s : State) (t : Pins) (i : Pin) (reason : Reason) (level : Level) : Prop :=
  (∀ j, pinIndex j < pinIndex i → s.commitAnswer t j = .ok) ∧ s.commitAnswer t i = .fail reason level

/-- The host does not reset in the coming `n` edges. -/
def State.noResetFor (s : State) (n : Nat) : Prop :=
  ∀ e ∈ s.env.inputs.take n, e.rst = false

/-- A command whose word is `w` is accepted at the coming edge (R46). -/
def State.acceptsWord (s : State) (w : CmdWord) : Prop :=
  accepts s = true ∧ s.edge.cmd = w

/-- The host command word `w` is accepted at one of the coming `n` edges (R46). -/
def State.acceptsWordWithin (w : CmdWord) : Nat → State → Prop
  | 0, _ => False
  | n + 1, s => s.acceptsWord w ∨ ∃ u, step s = .next u ∧ State.acceptsWordWithin w n u

/-- A command is in progress. -/
def State.isBusy (s : State) : Bool :=
  decide (s.seq ≠ .idle)

/-- R15: while SEQ is `busy(op, k, t)` the pins before `k` hold `t`, and `t` is what the command commits: for STEP the
pattern of the already advanced STATE, for STOP four lows. -/
def State.seqSound (s : State) : Prop :=
  match s.seq with
  | .idle => True
  | .busy .step k t =>
    (∀ j, pinIndex j < pinIndex k → readPin s.pin j = readPin t j) ∧ t = pattern s.motorState ∧ s.motorState ≠ .s0
  | .busy .stop k t =>
    (∀ j, pinIndex j < pinIndex k → readPin s.pin j = readPin t j) ∧ t = allPins false

/-- The last event on a pin, if the history has one (R40). -/
def lastEventOn (h : List Event) (i : Pin) : Option Event :=
  (h.filter fun e => e.pin = i).getLast?

/-- R40, R107: a pin shows the reset levels followed by the effect of each event in order. So a pin without an event
holds its reset level, and a pin whose last event succeeded holds the level of that event; the level after a failed
event is unspecified (R105). -/
def State.padsFollowHistory (s : State) : Prop :=
  ∀ i,
    match lastEventOn s.history i with
    | none => readPin s.pin i = readPin s.env.pinReset i
    | some e => e.outcome = .ok → readPin s.pin i = e.level

/-- While STATE is 0, every event since reset asked for low, as a STOP's writes do (R83). This says what the history
shows and not which commands were accepted: a STEP that fails at pin A may have asked for low alone too. -/
def State.onlyLowsAtZero (s : State) : Prop :=
  s.motorState = .s0 → ∀ e ∈ s.history, e.level = false

/-! ## Renaming the failure reasons (R7 `Reason`, R104: opaque to the block) -/

/-- A platform answer with its reason, if it has one, renamed. -/
def renameAnswer (f : Reason → Reason) : PadAnswer → PadAnswer
  | .ok => .ok
  | .fail reason level => .fail (f reason) level

/-- A request's result with its reason, if it has one, renamed. -/
def renameResult (f : Reason → Reason) : PinResult → PinResult
  | .ok => .ok
  | .fail reason => .fail (f reason)

/-- A response with its reason, if it has one, renamed. -/
def renameResponse (f : Reason → Reason) : Response → Response
  | .ok => .ok
  | .pinWriteError reason => .pinWriteError (f reason)

/-- An event with the reason of its outcome, if it has one, renamed. -/
def renameEvent (f : Reason → Reason) (e : Event) : Event :=
  { e with outcome := renameResult f e.outcome }

/-- The state with every reason in it renamed: those of the history, of the responses and of the result port, and those
of the platform's coming answers. -/
def State.renameReasons (f : Reason → Reason) (s : State) : State :=
  { s with
    history := s.history.map (renameEvent f)
    rsp := s.rsp.map (renameResponse f)
    responses := s.responses.map (renameResponse f)
    pwRsp := s.pwRsp.map (renameResult f)
    env := { s.env with pads := s.env.pads.map (renameAnswer f) } }

end Sys2Proof.Machine
end

