-- ==== Sys2Proof/Certificates/Slice0/Obligations.lean ====
section
/-!
DEFINITION. The statements about the machine.
-/

open Sys2Proof Sys2Proof.Machine

/-! ## Words and instructions -/

/-- R47, the host command word: `cls` = bit 1, `sub` = bit 0, and the four rows of its table. -/
def Obligations.CmdWordsDecode : Prop :=
  (∀ w : CmdWord, w.getLsbD 1 = false → decode (.cmd w) = if w.getLsbD 0 then .stop else .step) ∧
  (∀ w : CmdWord, w.getLsbD 1 = true → ∃ d, decode (.cmd w) = .setDirection d ∧ d.bit = w.getLsbD 0) ∧
  decode (.cmd 0b00#2) = .step ∧ decode (.cmd 0b01#2) = .stop ∧
  decode (.cmd 0b10#2) = .setDirection .forward ∧ decode (.cmd 0b11#2) = .setDirection .reverse

/-- R49, the pin-write request word: `sel` = bits 2:1 is the pin address, `lvl` = bit 0 selects the request, the
eight rows of its table, and `PinWrite(i, v)` is the request `{i[1:0], v}`. -/
def Obligations.PinwWordsDecode : Prop :=
  (∀ w : PinwWord, ∃ i : Pin, i.addr = w.extractLsb' 1 2 ∧
    decode (.pinw w) = if w.getLsbD 0 then .pinSetHigh i else .pinSetLow i) ∧
  decode (.pinw 0b000#3) = .pinSetLow .a ∧ decode (.pinw 0b001#3) = .pinSetHigh .a ∧
  decode (.pinw 0b010#3) = .pinSetLow .b ∧ decode (.pinw 0b011#3) = .pinSetHigh .b ∧
  decode (.pinw 0b100#3) = .pinSetLow .c ∧ decode (.pinw 0b101#3) = .pinSetHigh .c ∧
  decode (.pinw 0b110#3) = .pinSetLow .d ∧ decode (.pinw 0b111#3) = .pinSetHigh .d ∧
  (∀ i v, decode (.pinw (pinwWord i v)) = if v then .pinSetHigh i else .pinSetLow i)

/-- Decoding undoes encoding for every instruction and encoding undoes decoding for every word of either format, so
each word has one meaning; a word stands in the format of its instruction's interface (30_encoding.md section 3). -/
def Obligations.DecodeAndEncodeAgree : Prop :=
  (∀ i : Instr, decode (encode i) = i) ∧ (∀ f : FetchWord, encode (decode f) = f) ∧
  (∀ i : Instr, (∃ w, encode i = .cmd w) ↔ i.wellFormedOn .cmd = true) ∧
  (∀ i : Instr, (∃ w, encode i = .pinw w) ↔ i.wellFormedOn .pinw = true)

/-- Numbers as the opcode table numbers them: every number of a format's width decodes, as the word it is (30_encoding.md
sections 2 and 3), and a number with a bit above the width is refused by name. That a number is read by its width, and
that one too wide for it is refused, is the model's choice, log entry 9: of numbers that are no word the spec says
nothing. -/
def Obligations.TableWordsDecode : Prop :=
  (∀ w : CmdWord, decodeTableWord 2 w.toNat = some (decode (.cmd w))) ∧
  (∀ w : PinwWord, decodeTableWord 3 w.toNat = some (decode (.pinw w))) ∧
  (∀ n, 4 ≤ n → decodeOn .cmd n = .error .cmdWordTooWide ∧ decodeTableWord 2 n = none) ∧
  (∀ n, 8 ≤ n → decodeOn .pinw n = .error .pinwWordTooWide ∧ decodeTableWord 3 n = none)

/-- R11 and R12, the code of STATE: the label as a 4-bit number; the codes 9 to 15 name no MotorState. -/
def Obligations.StateCodes : Prop :=
  (∀ m : MotorState, m.code.toNat = m.label ∧ MotorState.ofCode? m.code = some m) ∧
  (∀ w : BitVec 4, MotorState.ofCode? w = none ↔ 9 ≤ w.toNat)

/-- R54, the listing text of every instruction, and that it reads back as that instruction; R55, the pseudo-instructions.
What the host drives for a line, one offer at one edge for a command, is the model's choice, log entry 14: R54 says
only that commands are issued in the order listed. -/
def Obligations.ListingNotation : Prop :=
  textOf .step = "step" ∧ textOf .stop = "stop" ∧
  textOf (.setDirection .forward) = "set_direction forward" ∧
  textOf (.setDirection .reverse) = "set_direction reverse" ∧
  textOf (.pinSetLow .a) = "pin_set_low a" ∧ textOf (.pinSetLow .b) = "pin_set_low b" ∧
  textOf (.pinSetLow .c) = "pin_set_low c" ∧ textOf (.pinSetLow .d) = "pin_set_low d" ∧
  textOf (.pinSetHigh .a) = "pin_set_high a" ∧ textOf (.pinSetHigh .b) = "pin_set_high b" ∧
  textOf (.pinSetHigh .c) = "pin_set_high c" ∧ textOf (.pinSetHigh .d) = "pin_set_high d" ∧
  (∀ i : Instr, instrOfText? (textOf i) = some i) ∧
  expandLine .fwd = expandLine (.setDirection .forward) ∧ expandLine .rev = expandLine (.setDirection .reverse) ∧
  (∀ n, expandListing [.steps n] = expandListing (List.replicate n .step)) ∧
  expandLine .step = [{ rst := false, cmdValid := true, cmd := 0b00#2 }] ∧
  expandLine .stop = [{ rst := false, cmdValid := true, cmd := 0b01#2 }] ∧
  expandLine .fwd = [{ rst := false, cmdValid := true, cmd := 0b10#2 }] ∧
  expandLine .rev = [{ rst := false, cmdValid := true, cmd := 0b11#2 }] ∧
  (∃ e, expandLine .reset = [e] ∧ e.rst = true)

/-! ## The State Table -/

/-- R65: the nine rows, the per-pin form, the packed codes, and `pattern(0)`, the only all-low pattern, is never what
a STEP commits. The four clauses of the per-pin form are the spec's own inference, marked "[derived: from the table]",
and so is the last clause, which R65 takes from R143, marked "[derived: from `40_state_table.md` rules R66, R67 and
`41_motor_controller.md` rule R81]". -/
def Obligations.PatternTable : Prop :=
  pattern .s0 = ⟨false, false, false, false⟩ ∧ pattern .s1 = ⟨false, false, false, true⟩ ∧
  pattern .s2 = ⟨false, false, true, true⟩ ∧ pattern .s3 = ⟨false, false, true, false⟩ ∧
  pattern .s4 = ⟨false, true, true, false⟩ ∧ pattern .s5 = ⟨false, true, false, false⟩ ∧
  pattern .s6 = ⟨true, true, false, false⟩ ∧ pattern .s7 = ⟨true, false, false, false⟩ ∧
  pattern .s8 = ⟨true, false, false, true⟩ ∧
  (∀ m, (pattern m).a = true ↔ m.label ∈ [6, 7, 8]) ∧ (∀ m, (pattern m).b = true ↔ m.label ∈ [4, 5, 6]) ∧
  (∀ m, (pattern m).c = true ↔ m.label ∈ [2, 3, 4]) ∧ (∀ m, (pattern m).d = true ↔ m.label ∈ [1, 2, 8]) ∧
  [MotorState.s0, .s1, .s2, .s3, .s4, .s5, .s6, .s7, .s8].map (fun m => (pattern m).code4)
    = [0x0, 0x1, 0x3, 0x2, 0x6, 0x4, 0xC, 0x8, 0x9] ∧
  (∀ m, pattern m = allPins false ↔ m = .s0) ∧ (∀ d m, pattern (nextState d m) ≠ allPins false)

/-- R66: the table, the formula `(s mod 8) + 1` and the form by cases, the result is never 0, not injective on 0..8, a
bijection on 1..8. The formula and the form by cases are the spec's own inference, marked "[derived: from the table]". -/
def Obligations.SuccessorTable : Prop :=
  [MotorState.s0, .s1, .s2, .s3, .s4, .s5, .s6, .s7, .s8].map (fun m => (successor m).label)
    = [1, 2, 3, 4, 5, 6, 7, 8, 1] ∧
  (∀ m, (successor m).label = m.label % 8 + 1) ∧
  (∀ m, (successor m).label = if m.label = 0 ∨ m.label = 8 then 1 else m.label + 1) ∧
  (∀ m, successor m ≠ .s0) ∧ successor .s0 = successor .s8 ∧
  (∀ m, m ≠ .s0 → ∃ n, (n ≠ .s0 ∧ successor n = m) ∧ ∀ n', n' ≠ .s0 → successor n' = m → n' = n)

/-- R67: the table, both formulas, the result is never 0, not injective on 0..8, a bijection on 1..8, and state 0
behaves as state 1 does (8, not 7). The two formulas are the spec's own inference, marked "[derived: from the table]". -/
def Obligations.PredecessorTable : Prop :=
  [MotorState.s0, .s1, .s2, .s3, .s4, .s5, .s6, .s7, .s8].map (fun m => (predecessor m).label)
    = [8, 8, 1, 2, 3, 4, 5, 6, 7] ∧
  (∀ m, (predecessor m).label = if m.label = 0 ∨ m.label = 1 then 8 else m.label - 1) ∧
  (∀ m, m ≠ .s0 → (predecessor m).label = (m.label + 6) % 8 + 1) ∧
  (∀ m, predecessor m ≠ .s0) ∧ predecessor .s0 = predecessor .s1 ∧
  (∀ m, m ≠ .s0 → ∃ n, (n ≠ .s0 ∧ predecessor n = m) ∧ ∀ n', n' ≠ .s0 → predecessor n' = m → n' = n)

/-- R68, the inverse cycle property on 1..8, and where it stops: at state 0. The clauses at state 0, the last one among
them, are the spec's own inference, marked "[derived: from rule R66 and rule R67]". -/
def Obligations.InverseCycle : Prop :=
  (∀ m, m ≠ .s0 → predecessor (successor m) = m ∧ successor (predecessor m) = m) ∧
  predecessor (successor .s0) = predecessor .s1 ∧ predecessor .s1 = .s8 ∧
  successor (predecessor .s0) = successor .s8 ∧ successor .s8 = .s1 ∧
  (∀ m, predecessor (successor m) = m → m ≠ .s0)

/-- R69: each of the two maps is a single 8-cycle on 1..8. -/
def Obligations.SingleEightCycle : Prop :=
  (∀ m, m ≠ .s0 → successor^[8] m = m ∧
    ∀ n, n ≠ .s0 → ∃ k, (k < 8 ∧ successor^[k] m = n) ∧ ∀ k', k' < 8 → successor^[k'] m = n → k' = k) ∧
  (∀ m, m ≠ .s0 → predecessor^[8] m = m ∧
    ∀ n, n ≠ .s0 → ∃ k, (k < 8 ∧ predecessor^[k] m = n) ∧ ∀ k', k' < 8 → predecessor^[k'] m = n → k' = k)

/-- R71, iteration, which the spec marks "[derived: from rule R66 and rule R67]": `successor^n(s) = ((s - 1 + n) mod 8)
+ 1` and `predecessor^n(s) = ((s - 1 - n) mod 8) + 1` for s in 1..8 and n >= 0, with mod taken non-negative;
`successor^n(0) = ((n - 1) mod 8) + 1` and `predecessor^n(0) = ((8 - (n mod 8)) mod 8) + 1` for n >= 1, and the three
values the rule gives as examples. -/
def Obligations.IterationFormulas : Prop :=
  (∀ m n, m ≠ .s0 → (successor^[n] m).label = (m.label - 1 + n) % 8 + 1) ∧
  (∀ m n, m ≠ .s0 → ((predecessor^[n] m).label : Int) = ((m.label : Int) - 1 - n) % 8 + 1) ∧
  (∀ n, 1 ≤ n → (successor^[n] .s0).label = (n - 1) % 8 + 1) ∧
  (∀ n, 1 ≤ n → (predecessor^[n] .s0).label = (8 - n % 8) % 8 + 1) ∧
  predecessor^[1] .s0 = .s8 ∧ predecessor^[2] .s0 = .s7 ∧ predecessor^[8] .s0 = .s1

/-- R72, the properties of the table, which the spec marks "[derived: from rule R65 and rule R66]": neighbours in the
cycle differ in one pin; odd states have one pin high, even ones two neighbours in the ring A, B, C, D, A; the
patterns are distinct; what `pattern(0)` differs in. -/
def Obligations.PatternNeighbours : Prop :=
  (∀ m, m ≠ .s0 → ∃ i, ∀ j, readPin (pattern m) j ≠ readPin (pattern (successor m)) j ↔ j = i) ∧
  (∀ m, m.label % 2 = 1 → ∃ i, ∀ j, readPin (pattern m) j = true ↔ j = i) ∧
  (∀ m, m ≠ .s0 → m.label % 2 = 0 →
    ∃ i, ∀ j, readPin (pattern m) j = true ↔ (j = i ∨ j = (pinAfter i).getD .a)) ∧
  (∀ m n, pattern m = pattern n → m = n) ∧
  (∀ i, readPin (pattern .s0) i ≠ readPin (pattern .s1) i ↔ i = .d) ∧
  (∀ i, readPin (pattern .s0) i ≠ readPin (pattern .s8) i ↔ (i = .a ∨ i = .d))

/-! ## The commands, each as a whole

Beside what the rules say of the registers, the events and the response, these statements also say what becomes of the
model's own fields: the surroundings `env` (log entries 2 and 3), the list of responses and the port of the last
request's result (log entry 11). -/

/-- R81 with no failing write: STATE advances, the four pins show the new state's pattern, four events in the order A,
B, C, D, response OK. Everything not named is as before: DIR, and of the surroundings all but the four answers used
up. -/
def Obligations.StepWhenNoWriteFails : Prop :=
  ∀ s : State,
    let m := nextState s.dir s.motorState
    s.writesSucceed (pattern m) →
    exec .step s = .next
      { s with
        motorState := m
        pin := pattern m
        seq := .idle
        history := s.history ++ okEvents (pattern m) 4
        rsp := some .ok
        responses := s.responses ++ [.ok]
        pwRsp := some .ok
        env := s.env.afterRequests 4 }

/-- R80, R81, R105, R114, a STEP whose first failing write is the one to pin `i`: STATE has advanced all the same,
pins before `i` show the new pattern, pin `i` is at the drawn level, later pins hold what they held, the last event is
the failed one, and the response is the error with the reason unchanged. Everything not named is as before. -/
def Obligations.StepWhenAWriteFails : Prop :=
  ∀ (s : State) (i : Pin) (reason : Reason) (level : Level),
    let m := nextState s.dir s.motorState
    s.failsFirstAt (pattern m) i reason level →
    ∃ p : Pins,
      (∀ j, pinIndex j < pinIndex i → readPin p j = readPin (pattern m) j) ∧ readPin p i = level ∧
      (∀ j, pinIndex i < pinIndex j → readPin p j = readPin s.pin j) ∧
      exec .step s = .next
        { s with
          motorState := m
          pin := p
          seq := .idle
          history := s.history ++ okEvents (pattern m) (pinIndex i)
            ++ [{ pin := i, level := readPin (pattern m) i, outcome := .fail reason }]
          rsp := some (.pinWriteError reason)
          responses := s.responses ++ [.pinWriteError reason]
          pwRsp := some (.fail reason)
          env := s.env.afterRequests (pinIndex i + 1) }

/-- R83 with no failing write: the four pins are low, four events, response OK; STATE and DIR, and everything else not
named, are as before. -/
def Obligations.StopWhenNoWriteFails : Prop :=
  ∀ s : State, s.writesSucceed (allPins false) →
    exec .stop s = .next
      { s with
        pin := allPins false
        seq := .idle
        history := s.history ++ okEvents (allPins false) 4
        rsp := some .ok
        responses := s.responses ++ [.ok]
        pwRsp := some .ok
        env := s.env.afterRequests 4 }

/-- R80, R83, R105, R114, a STOP whose first failing write is the one to pin `i`: pins before `i` are low, pin `i` is
at the drawn level, later pins hold what they held; STATE and DIR, and everything else not named, are as before. -/
def Obligations.StopWhenAWriteFails : Prop :=
  ∀ (s : State) (i : Pin) (reason : Reason) (level : Level),
    s.failsFirstAt (allPins false) i reason level →
    ∃ p : Pins,
      (∀ j, pinIndex j < pinIndex i → readPin p j = false) ∧ readPin p i = level ∧
      (∀ j, pinIndex i < pinIndex j → readPin p j = readPin s.pin j) ∧
      exec .stop s = .next
        { s with
          pin := p
          seq := .idle
          history := s.history ++ okEvents (allPins false) (pinIndex i)
            ++ [{ pin := i, level := false, outcome := .fail reason }]
          rsp := some (.pinWriteError reason)
          responses := s.responses ++ [.pinWriteError reason]
          pwRsp := some (.fail reason)
          env := s.env.afterRequests (pinIndex i + 1) }

/-- What `Commit` answers (R80), in the two cases the statements about STEP and STOP speak of: no failure exactly when no
write of the commit fails, and a failure with a reason exactly when the first failing write fails with that reason. The
two cases leave none out and do not overlap: in every state, either no write of the commit fails or there is exactly one
pin, reason and level at which it fails first (R104, R113). -/
def Obligations.CommitSucceedsOrFailsFirstOnce : Prop :=
  ∀ (s : State) (t : Pins),
    ((s.commit t).1 = none ↔ s.writesSucceed t) ∧
    (∀ reason, (s.commit t).1 = some reason ↔ ∃ i level, s.failsFirstAt t i reason level) ∧
    ((s.writesSucceed t ∧ ∀ i reason level, ¬ s.failsFirstAt t i reason level) ∨
    (¬ s.writesSucceed t ∧ ∃ i reason level, s.failsFirstAt t i reason level ∧
      ∀ i' reason' level', s.failsFirstAt t i' reason' level' → i' = i ∧ reason' = reason ∧ level' = level))

/-- STEP and STOP complete in every state, whatever the platform answers: STEP with STATE advanced and DIR as it was
(R81), STOP with both as they were (R83), the block idle again, and one response handed over (R85). -/
def Obligations.StepAndStopAlwaysComplete : Prop :=
  ∀ s : State,
    (∃ t r, exec .step s = .next t ∧ t.motorState = nextState s.dir s.motorState ∧ t.dir = s.dir ∧ t.seq = .idle ∧
      t.rsp = some r ∧ t.responses = s.responses ++ [r]) ∧
    (∃ t r, exec .stop s = .next t ∧ t.motorState = s.motorState ∧ t.dir = s.dir ∧ t.seq = .idle ∧
      t.rsp = some r ∧ t.responses = s.responses ++ [r])

/-- R82: the words `0b10` and `0b11` are SET_DIRECTION with d = Forward and Reverse; it assigns DIR and answers OK, in
every state and on every platform, so it cannot fail; STATE, every pin, the history and the surroundings are as before,
so no pin write was issued and no platform answer was used. Two clauses are the model's choices and not the rule's: that
the response joins the list of responses is the model's bookkeeping, log entry 11, and that SEQ is idle afterwards on a
busy block too, where no step runs a host command, is log entry 7. -/
def Obligations.SetDirectionAssignsDirOnly : Prop :=
  decode (.cmd 0b10#2) = .setDirection .forward ∧ decode (.cmd 0b11#2) = .setDirection .reverse ∧
  ∀ (d : Direction) (s : State),
    exec (.setDirection d) s = .next
      { s with dir := d, seq := .idle, rsp := some .ok, responses := s.responses ++ [.ok] }

/-- R101, PIN_SET_HIGH i on every platform answer: the event and the result, the level of pin `i`, and nothing else
of the block; every other pin reads as before (R100). -/
def Obligations.PinSetHighEffect : Prop :=
  ∀ (i : Pin) (s : State), ∃ (p : Pins) (r : PinResult),
    exec (.pinSetHigh i) s = .next
      { s with
        pin := p
        history := s.history ++ [{ pin := i, level := true, outcome := r }]
        pwRsp := some r
        env := s.env.afterRequests 1 } ∧
    (∀ j, j ≠ i → readPin p j = readPin s.pin j) ∧
    (s.padAnswer i true = .ok → r = .ok ∧ readPin p i = true) ∧
    (∀ reason level, s.padAnswer i true = .fail reason level → r = .fail reason ∧ readPin p i = level)

/-- R102, PIN_SET_LOW i on every platform answer, as for PIN_SET_HIGH. -/
def Obligations.PinSetLowEffect : Prop :=
  ∀ (i : Pin) (s : State), ∃ (p : Pins) (r : PinResult),
    exec (.pinSetLow i) s = .next
      { s with
        pin := p
        history := s.history ++ [{ pin := i, level := false, outcome := r }]
        pwRsp := some r
        env := s.env.afterRequests 1 } ∧
    (∀ j, j ≠ i → readPin p j = readPin s.pin j) ∧
    (s.padAnswer i false = .ok → r = .ok ∧ readPin p i = false) ∧
    (∀ reason level, s.padAnswer i false = .fail reason level → r = .fail reason ∧ readPin p i = level)

/-- R40, R80, R113: a STEP or a STOP appends one to four events, to the pins A, B, C, D in that order and asking for
the levels of what it commits; all but the last succeeded; it responds OK exactly when there are four and the last
one succeeded too, and otherwise with the reason of the last one. The spec marks R40's count of events "[derived: from
`41_motor_controller.md` rules R80 to R83]". -/
def Obligations.CommitEventsInOrder : Prop :=
  ∀ (s u : State) (t : Pins),
    (exec .step s = .next u ∧ t = pattern (nextState s.dir s.motorState)) ∨
      (exec .stop s = .next u ∧ t = allPins false) →
    (u.history = s.history ++ okEvents t 4 ∧ u.rsp = some .ok) ∨
    (∃ i reason, u.history = s.history ++ okEvents t (pinIndex i)
        ++ [{ pin := i, level := readPin t i, outcome := .fail reason }] ∧
      u.rsp = some (.pinWriteError reason))

/-! ## Commands one after the other -/

/-- R86: a STEP after a STOP goes on from the state before the STOP, to the same state as if the STOP had not happened,
and shows the same pattern if no write of either fails; in between, the STOP leaves the pins low if none of its own
writes failed. -/
def Obligations.StopThenStepResumes : Prop :=
  ∀ s : State, ∃ u v w,
    exec .stop s = .next u ∧ exec .step u = .next v ∧ exec .step s = .next w ∧
    u.motorState = s.motorState ∧ u.dir = s.dir ∧ (u.rsp = some .ok → u.pin = allPins false) ∧
    v.motorState = nextState s.dir s.motorState ∧ v.motorState = w.motorState ∧ v.dir = w.dir ∧
    (v.rsp = some .ok → v.pin = pattern (nextState s.dir s.motorState)) ∧
    (v.rsp = some .ok → w.rsp = some .ok → v.pin = w.pin)

/-- R115, R137: after a STEP, failed or not, the next STEP takes the next state; it does not retry. If its writes
succeed the pins show that state's pattern again, whatever the first one left behind. The spec marks this part of R115
"[derived: from `41_motor_controller.md` rules R81 to R83]". -/
def Obligations.FailedStepIsNotRetried : Prop :=
  ∀ s : State, ∃ u v,
    exec .step s = .next u ∧ exec .step u = .next v ∧
    v.motorState = nextState s.dir (nextState s.dir s.motorState) ∧
    (v.rsp = some .ok → v.pin = pattern (nextState s.dir (nextState s.dir s.motorState)))

/-- R87: after a STEP, a change to the opposite direction and another STEP, STATE is back where it was, if it was in
1..8; from the sentinel it is not (R68). The spec marks R87 "[derived: from rule R81 and `40_state_table.md` rule R68]",
and R68's part at state 0 "[derived: from rule R66 and rule R67]". -/
def Obligations.TurnGoesBackOneState : Prop :=
  ∀ (s : State) (d : Direction), d ≠ s.dir → ∃ t u v,
    exec .step s = .next t ∧ exec (.setDirection d) t = .next u ∧ exec .step u = .next v ∧
    u.pin = t.pin ∧ u.motorState = t.motorState ∧ (v.motorState = s.motorState ↔ s.motorState ≠ .s0)

/-- R81 corner case (f), R83: neither STEP nor STOP looks at the pins. From two states that differ in the pins alone
each ends in states that differ in the pins alone, and in the same state if no write failed. The spec marks corner case
(f) "[derived: from rule R80]". -/
def Obligations.CommandsIgnoreThePins : Prop :=
  ∀ (s : State) (p : Pins) (i : Instr), (i = .step ∨ i = .stop) → ∃ t u,
    exec i s = .next t ∧ exec i { s with pin := p } = .next u ∧ u = { t with pin := u.pin } ∧
    (t.rsp = some .ok → u = t)

/-- R83, R123: STOP reads neither STATE nor DIR; it does the same from every state and direction and leaves both. -/
def Obligations.StopIgnoresStateAndDir : Prop :=
  ∀ (s : State) (m : MotorState) (d : Direction), ∃ t,
    exec .stop s = .next t ∧ exec .stop { s with motorState := m, dir := d } = .next { t with motorState := m, dir := d }

/-! ## One step of the machine -/

/-- In the whole-command grain a step of an idle block that is offered a word runs the decoded instruction on the state
as the edge finds it (R8, R46). -/
def Obligations.StepRunsTheOfferedCommand : Prop :=
  ∀ s : State, s.seq = .idle → s.edge.rst = false → s.edge.cmdValid = true → s.env.grain = .command →
    step s = exec (decode (.cmd s.edge.cmd))
      { s with rsp := none, pwRsp := none, env := { s.env with inputs := s.env.inputs.tail } }

/-- A step of a busy block runs the controller's request for the next pin, PIN_SET_HIGH or PIN_SET_LOW by the level
the tuple has there (R15, R103), and the controller then goes to the next pin, ends the command with OK after pin D,
or ends it with the error (R80, R114). -/
def Obligations.BusyStepRunsTheRequest : Prop :=
  ∀ (s : State) (op : PinOp) (k : Pin) (t : Pins), s.seq = .busy op k t → s.edge.rst = false →
    ∃ u,
      exec (if readPin t k then .pinSetHigh k else .pinSetLow k)
        { s with rsp := none, pwRsp := none, env := { s.env with inputs := s.env.inputs.tail } } = .next u ∧
      ((∃ reason, u.pwRsp = some (.fail reason) ∧
          step s = .next { u with
            seq := .idle
            rsp := some (.pinWriteError reason)
            responses := u.responses ++ [.pinWriteError reason] }) ∨
        (u.pwRsp = some .ok ∧ k = .d ∧
          step s = .next { u with seq := .idle, rsp := some .ok, responses := u.responses ++ [.ok] }) ∨
        (u.pwRsp = some .ok ∧ ∃ k', pinIndex k' = pinIndex k + 1 ∧ step s = .next { u with seq := .busy op k' t }))

/-- The pin-write grain of R8 at acceptance: STEP has advanced STATE and SEQ is busy at pin A with the new pattern,
STOP has SEQ busy at pin A with four lows, no pin is written yet (R15); SET_DIRECTION is over at once. -/
def Obligations.PinWriteGrainAccepts : Prop :=
  ∀ s : State, s.seq = .idle → s.edge.rst = false → s.edge.cmdValid = true → s.env.grain = .pinWrite →
    let s1 : State := { s with rsp := none, pwRsp := none, env := { s.env with inputs := s.env.inputs.tail } }
    let m := nextState s.dir s.motorState
    (s.edge.cmd = 0b00#2 → step s = .next { s1 with motorState := m, seq := .busy .step .a (pattern m) }) ∧
    (s.edge.cmd = 0b01#2 → step s = .next { s1 with seq := .busy .stop .a (allPins false) }) ∧
    (s.edge.cmd = 0b10#2 → step s = exec (.setDirection .forward) s1) ∧
    (s.edge.cmd = 0b11#2 → step s = exec (.setDirection .reverse) s1)

/-- R84, R106: where no command is in progress and none is offered, a step changes nothing but that the responses of
the step before leave their ports. -/
def Obligations.NothingHappensWithoutACommand : Prop :=
  ∀ s : State, s.seq = .idle → s.edge.rst = false → s.edge.cmdValid = false →
    step s = .next { s with rsp := none, pwRsp := none, env := { s.env with inputs := s.env.inputs.tail } }

/-- R46: a command offered while the block is busy is not accepted and has no effect. -/
def Obligations.OfferWhileBusyHasNoEffect : Prop :=
  ∀ (s : State) (v : Bool) (w : CmdWord) (rest : List HostEdge), s.seq ≠ .idle →
    accepts { s with env := { s.env with inputs := { rst := false, cmdValid := v, cmd := w } :: rest } } = false ∧
    step { s with env := { s.env with inputs := { rst := false, cmdValid := v, cmd := w } :: rest } }
      = step { s with env := { s.env with inputs := edgeIdle :: rest } }

/-- R131, R133: at an edge with `rst` = 1 the reset event happens, whatever is in progress and whatever is offered. A
command offered at that edge is not accepted; the one in progress is over without a response, its remaining writes never
issued; the state is that of R130. -/
def Obligations.ResetWins : Prop :=
  ∀ s : State, s.edge.rst = true →
    cmdReady s = false ∧ accepts s = false ∧
    ∃ t, step s = .next t ∧
      t.motorState = .s0 ∧ t.dir = .forward ∧ t.seq = .idle ∧ t.pin = s.env.pinReset ∧ t.history = [] ∧
      rspValidO t = false ∧ pwO t = none ∧ cmdReady t = !t.edge.rst

/-- The whole state after the reset event (R130, R132): nothing of the registers survives, and the surroundings stay.
That the received responses and the last request's result are cleared with the history is the model's choice, log entry
11. -/
def Obligations.NothingSurvivesReset : Prop :=
  ∀ s : State, s.edge.rst = true →
    step s = .next
      { State.resetWith s.env.pinReset with env := { s.env with inputs := s.env.inputs.tail } }

/-- The state right after reset, for every `PIN_RESET` (R130), and the model's State.reset, which takes the default
(0,0,0,0) of the spec's D12 (the model's choice of it is log entry 5). That the list of responses is empty and the
result port of the pin-write request shows nothing right after reset is the model's choice, log entry 11: the spec gives
a value for `rsp_valid` only. -/
def Obligations.StateAfterReset : Prop :=
  (∀ p : Pins,
    let s := State.resetWith p
    s.motorState = .s0 ∧ s.dir = .forward ∧ s.pin = p ∧ s.env.pinReset = p ∧ s.seq = .idle ∧ s.history = [] ∧
      s.rsp = none ∧ s.responses = [] ∧ s.pwRsp = none ∧ cmdReady s = true ∧ rspValidO s = false) ∧
  State.reset = State.resetWith ⟨false, false, false, false⟩

/-- A word placed for the next step is what the next step fetches and runs: a command word as the whole command, a
request word as the request (log entry 10). -/
def Obligations.PlacedWordRunsNext : Prop :=
  (∀ (s : State) (w : CmdWord),
    step (s.withFetchWord 2 w.toNat) = exec (decode (.cmd w))
      { s with seq := .idle, rsp := none, pwRsp := none, env := { s.env with grain := .command } }) ∧
  (∀ (s : State) (w : PinwWord),
    (s.withFetchWord 3 w.toNat).fetch = some (.pinw w) ∧
    ∃ u op k t, exec (decode (.pinw w)) { s with seq := .busy op k t, rsp := none, pwRsp := none } = .next u ∧
      step (s.withFetchWord 3 w.toNat) = .next (u.requestDone op k t))

/-- R45, the ports as functions of the state: `cmd_ready` is 1 exactly when SEQ is idle and `rst` is 0, the pads
carry the pins, the observation outputs the registers, the response ports the response, and the request port the
request that is due. That a port which is meaningful only while another is 1 has no value at all otherwise, on which the
"only if" halves rest, is the model's choice, log entry 13; that the request port does not depend on `rst` is log entry
18. -/
def Obligations.PortsShowTheState : Prop :=
  ∀ s : State,
    (cmdReady s = true ↔ s.seq = .idle ∧ s.edge.rst = false) ∧
    (accepts s = true ↔ s.edge.cmdValid = true ∧ cmdReady s = true ∧ s.edge.rst = false) ∧
    (∀ i, pinO s i = readPin s.pin i) ∧ (stateO s).toNat = s.motorState.label ∧ (dirO s = true ↔ s.dir = .reverse) ∧
    (rspValidO s = true ↔ s.rsp ≠ none) ∧ (rspErrO s = some false ↔ s.rsp = some .ok) ∧
    (∀ reason, rspReasonO s = some reason ↔ s.rsp = some (.pinWriteError reason)) ∧
    (∀ reason, rspReasonO s = some reason → rspErrO s = some true) ∧
    (pwO s = none ↔ s.seq = .idle) ∧ (∀ op k t, s.seq = .busy op k t → pwO s = some (pinwWord k (readPin t k))) ∧
    (pwDoneO s = true ↔ s.pwRsp ≠ none) ∧ (pwFailO s = some false ↔ s.pwRsp = some .ok) ∧
    (∀ reason, pwReasonO s = some reason ↔ s.pwRsp = some (.fail reason))

/-! ## The whole machine -/

/-- R111, R148: a step never stops the machine, from any state. -/
def Obligations.StepNeverStops : Prop :=
  ∀ s : State, ∃ t, step s = .next t

/-- R11, R22 items 2 and 3: only an accepted STEP moves STATE, along the cycle in the direction DIR, whether or not its
writes succeed, and only reset brings back 0. The spec marks both items of R22 as derived, from R81, R66 and R67 and from
R11. -/
def Obligations.OnlyStepMovesState : Prop :=
  ∀ s t : State, step s = .next t →
    (s.edge.rst = true → t.motorState = .s0) ∧
    (s.acceptsWord 0b00#2 → t.motorState = nextState s.dir s.motorState) ∧
    (s.edge.rst = false → ¬ s.acceptsWord 0b00#2 → t.motorState = s.motorState) ∧
    (t.motorState = .s0 ↔ s.edge.rst = true ∨ (s.motorState = .s0 ∧ ¬ s.acceptsWord 0b00#2))

/-- R13, R22 item 4: only an accepted SET_DIRECTION changes DIR, to its operand; reset sets Forward. The spec marks item 4
of R22 "[derived: from rule R13]". -/
def Obligations.OnlySetDirectionChangesDir : Prop :=
  ∀ s t : State, step s = .next t →
    (s.edge.rst = true → t.dir = .forward) ∧
    (s.acceptsWord 0b10#2 → t.dir = .forward) ∧ (s.acceptsWord 0b11#2 → t.dir = .reverse) ∧
    (s.edge.rst = false → ¬ s.acceptsWord 0b10#2 → ¬ s.acceptsWord 0b11#2 → t.dir = s.dir)

/-- R14, R106: the pins and the history change only by a pin write, so they hold through every step that is no reset,
finds no command in progress and accepts no STEP and no STOP. -/
def Obligations.PinsHoldWithoutAWrite : Prop :=
  ∀ s t : State, step s = .next t → s.edge.rst = false → s.seq = .idle →
    ¬ s.acceptsWord 0b00#2 → ¬ s.acceptsWord 0b01#2 → t.pin = s.pin ∧ t.history = s.history

/-- R85, R46: every accepted command gives exactly one response. Counting a command in progress as a response still
owed, each step owes one more exactly when it accepts a command, and the response on the port is the one added. -/
def Obligations.OneResponsePerAcceptedCommand : Prop :=
  ∀ s t : State, step s = .next t → s.edge.rst = false →
    t.responses = s.responses ++ t.rsp.toList ∧
    t.responses.length + t.isBusy.toNat = s.responses.length + s.isBusy.toNat + (accepts s).toNat

/-- R7, R20: no step changes a parameter, `PIN_RESET` or the grain of a run; each uses up one edge of the host's; and
each pin write uses up one of the platform's answers and one draw, so that no draw is used twice, and a reset uses up
none. The grain, the list of host edges, the list of answers and the counter of draws are the model's own fields, log
entries 1, 2 and 3; that the draws are counted over resets is log entry 3. -/
def Obligations.SurroundingsOnlyUsedUp : Prop :=
  ∀ s t : State, step s = .next t →
    t.env.pinReset = s.env.pinReset ∧ t.env.grain = s.env.grain ∧ t.env.inputs = s.env.inputs.tail ∧
    ∃ n, t.env.pads = s.env.pads.drop n ∧ t.env.draws = s.env.draws + n ∧
      (s.edge.rst = false → t.history.length = s.history.length + n) ∧ (s.edge.rst = true → n = 0)

/-- R148: a command in progress ends, if the host does not reset: after at most as many steps as it has pins left to
write, the block is idle and has given one response. The bound counts steps of the model, one for each pin write, which
is the model's choice, log entries 1 and 6: of clock edges R147 and R148 say only that they are finitely many. -/
def Obligations.BusyCommandEnds : Prop :=
  ∀ (s : State) (op : PinOp) (k : Pin) (t : Pins), s.seq = .busy op k t → s.noResetFor 4 →
    ∃ (n : Nat) (u : State) (r : Response), 1 ≤ n ∧ n ≤ 4 - pinIndex k ∧
      Sys2Proof.core.run n s = .next u ∧ u.seq = .idle ∧ u.rsp = some r ∧ u.responses = s.responses ++ [r]

/-- R144: the combinations an observer of the pads sees during a command none of whose writes fail: after j writes the
first j pins show the target and the others what they showed before. A write is one step of the model here (log entries 1
and 6), and how long a combination lasts is left open (R147). The spec marks R144 "[derived: from
`41_motor_controller.md` rule R80 and `42_gpio_output_driver.md` rule R107]". -/
def Obligations.IntermediateCombinations : Prop :=
  ∀ (s : State) (op : PinOp) (t : Pins), s.seq = .busy op .a t → s.noResetFor 4 → s.writesSucceed t →
    ∀ j, j ≤ 4 → ∃ u : State, Sys2Proof.core.run j s = .next u ∧
      ∀ i, pinO u i = if pinIndex i < j then readPin t i else readPin s.pin i

/-- R8: the two levels of description agree. In the pin-write grain an accepted command, not reset in the middle, ends
after one to five steps in exactly the state in which the whole command ends, but for the edges of the host's that have
gone by. The number of steps, one for acceptance and one for each pin write, is the model's choice, log entries 1 and 6,
and no number of clock edges (R147). -/
def Obligations.PinWriteGrainAgreesWithWholeCommand : Prop :=
  ∀ s : State, s.seq = .idle → s.env.grain = .pinWrite → s.edge.cmdValid = true → s.noResetFor 5 →
    ∃ (n : Nat) (u : State), 1 ≤ n ∧ n ≤ 5 ∧
      exec (decode (.cmd s.edge.cmd)) { s with rsp := none, pwRsp := none } = .next u ∧
      Sys2Proof.core.run n s = .next { u with env := { u.env with inputs := s.env.inputs.drop n } }

/-! ## Invariants -/

/-- R15 holds right after reset, whatever `PIN_RESET` is. -/
def Obligations.SeqSoundAfterReset : Prop :=
  ∀ p : Pins, (State.resetWith p).seqSound

/-- R15, an invariant of every step: while SEQ is busy the pins before the one that is due hold what the command
commits, and that is the pattern of the already advanced STATE for STEP and four lows for STOP. -/
def Obligations.SeqSoundKept : Prop :=
  ∀ s t : State, s.seqSound → step s = .next t → t.seqSound

/-- R40, R107 hold right after reset, whatever `PIN_RESET` is. -/
def Obligations.PadsFollowHistoryAfterReset : Prop :=
  ∀ p : Pins, (State.resetWith p).padsFollowHistory

/-- R40, R107, an invariant of every step: each pin shows the level of the last event on it if that succeeded, and its
reset level if there is none. -/
def Obligations.PadsFollowHistoryKept : Prop :=
  ∀ s t : State, s.padsFollowHistory → step s = .next t → t.padsFollowHistory

/-- Right after reset, where STATE is 0, every event since reset asked for low: there is none (R130). -/
def Obligations.OnlyLowsAtZeroAfterReset : Prop :=
  ∀ p : Pins, (State.resetWith p).onlyLowsAtZero

/-- An invariant of every step from a state that is sound in the sense of R15: while STATE is 0, every event since reset
asked for low. It is DEDUCED from R22 items 2 and 3, which the spec marks as derived, and R83. What was accepted while
STATE was 0 is StateZeroIffNoStepSinceReset. -/
def Obligations.OnlyLowsAtZeroKept : Prop :=
  ∀ s t : State, s.seqSound → s.onlyLowsAtZero → step s = .next t → t.onlyLowsAtZero

/-- R22 item 3: from a state with STATE 0, as reset leaves it, and without a further reset, STATE is 0 after any
number of steps exactly if no STEP was accepted at any of their edges, whether or not the writes of one succeeded. The
spec marks item 3 "[derived: from invariant 2 and rule R11]". -/
def Obligations.StateZeroIffNoStepSinceReset : Prop :=
  ∀ (n : Nat) (s t : State), s.motorState = .s0 → s.noResetFor n → Sys2Proof.core.run n s = .next t →
    (t.motorState = .s0 ↔ ¬ s.acceptsWordWithin 0b00#2 n)

/-- R7 `Reason`, R104: the failure reasons are opaque to the block, which only carries them. With all reasons renamed,
by any function, every instruction and every step does the same and ends in the state with its reasons renamed. The
premise, that the platform's coming answers are listed, is there because an answer drawn from Config's free values
(log entry 3) is not renamed with the state. -/
def Obligations.ReasonsAreOnlyCarried : Prop :=
  ∀ (f : Reason → Reason) (s : State), 4 ≤ s.env.pads.length →
    (∀ i : Instr, ∃ t, exec i s = .next t ∧ exec i (s.renameReasons f) = .next (t.renameReasons f)) ∧
    ∃ t, step s = .next t ∧ step (s.renameReasons f) = .next (t.renameReasons f)
end

