-- ==== Sys2Proof/Laws/Pins.lean ====
section
/-!
SUPPORT. The pin space: reading after a write, the order of the four pins, and the request word of a pin.
-/

namespace Sys2Proof.Machine

@[simp] theorem readPin_writePin_same (t : Pins) (i : Pin) (v : Level) : readPin (writePin t i v) i = v := by
  cases i <;> rfl

theorem readPin_writePin_other {i j : Pin} (h : j ≠ i) (t : Pins) (v : Level) :
    readPin (writePin t i v) j = readPin t j := by
  cases i <;> cases j <;> first | rfl | exact absurd rfl h

theorem readPin_writePin (t : Pins) (i j : Pin) (v : Level) :
    readPin (writePin t i v) j = if j = i then v else readPin t j := by
  split
  · next h => rw [h]; exact readPin_writePin_same t i v
  · next h => exact readPin_writePin_other h t v

@[simp] theorem readPin_allPins (v : Level) (i : Pin) : readPin (allPins v) i = v := by
  cases i <;> rfl

/-- Two pin spaces that read the same everywhere are the same. -/
theorem pins_ext {t u : Pins} (h : ∀ i, readPin t i = readPin u i) : t = u := by
  cases t; cases u
  have ha := h .a; have hb := h .b; have hc := h .c; have hd := h .d
  simp only [readPin] at ha hb hc hd
  rw [ha, hb, hc, hd]

@[simp] theorem pinIndex_a : pinIndex .a = 0 := rfl
@[simp] theorem pinIndex_b : pinIndex .b = 1 := rfl
@[simp] theorem pinIndex_c : pinIndex .c = 2 := rfl
@[simp] theorem pinIndex_d : pinIndex .d = 3 := rfl

theorem pinIndex_lt_four (i : Pin) : pinIndex i < 4 := by
  cases i <;> decide

theorem pinIndex_injective {i j : Pin} (h : pinIndex i = pinIndex j) : i = j := by
  cases i <;> cases j <;> first | rfl | exact absurd h (by decide)

/-- The pin written after `k` is the one at the next address. -/
theorem pinIndex_pinAfter {k k' : Pin} (h : pinAfter k = some k') : pinIndex k' = pinIndex k + 1 := by
  cases k <;> cases k' <;> simp_all [pinAfter]

theorem pinAfter_eq_none {k : Pin} (h : pinAfter k = none) : k = .d := by
  cases k <;> simp_all [pinAfter]

/-- The controller's request word decodes to the request it stands for (R49, R103). -/
theorem decode_pinwWord (i : Pin) (v : Level) :
    decode (.pinw (pinwWord i v)) = if v then .pinSetHigh i else .pinSetLow i := by
  cases i <;> cases v <;> rfl

end Sys2Proof.Machine
end

