-- ==== Sys2Proof/Laws/State.lean ====
section
/-!
SUPPORT. One lemma per field for each update of the state, so that no proof unfolds a record update.
-/

namespace Sys2Proof.Machine

@[simp] theorem State.setMotorState_motorState (s : State) (m : MotorState) :
    (s.setMotorState m).motorState = m := rfl
@[simp] theorem State.setMotorState_dir (s : State) (m : MotorState) : (s.setMotorState m).dir = s.dir := rfl
@[simp] theorem State.setMotorState_pin (s : State) (m : MotorState) : (s.setMotorState m).pin = s.pin := rfl
@[simp] theorem State.setMotorState_seq (s : State) (m : MotorState) : (s.setMotorState m).seq = s.seq := rfl
@[simp] theorem State.setMotorState_history (s : State) (m : MotorState) :
    (s.setMotorState m).history = s.history := rfl
@[simp] theorem State.setMotorState_rsp (s : State) (m : MotorState) : (s.setMotorState m).rsp = s.rsp := rfl
@[simp] theorem State.setMotorState_responses (s : State) (m : MotorState) :
    (s.setMotorState m).responses = s.responses := rfl
@[simp] theorem State.setMotorState_pwRsp (s : State) (m : MotorState) : (s.setMotorState m).pwRsp = s.pwRsp := rfl
@[simp] theorem State.setMotorState_env (s : State) (m : MotorState) : (s.setMotorState m).env = s.env := rfl

@[simp] theorem State.setDir_motorState (s : State) (d : Direction) : (s.setDir d).motorState = s.motorState := rfl
@[simp] theorem State.setDir_dir (s : State) (d : Direction) : (s.setDir d).dir = d := rfl
@[simp] theorem State.setDir_pin (s : State) (d : Direction) : (s.setDir d).pin = s.pin := rfl
@[simp] theorem State.setDir_seq (s : State) (d : Direction) : (s.setDir d).seq = s.seq := rfl
@[simp] theorem State.setDir_history (s : State) (d : Direction) : (s.setDir d).history = s.history := rfl
@[simp] theorem State.setDir_rsp (s : State) (d : Direction) : (s.setDir d).rsp = s.rsp := rfl
@[simp] theorem State.setDir_responses (s : State) (d : Direction) : (s.setDir d).responses = s.responses := rfl
@[simp] theorem State.setDir_pwRsp (s : State) (d : Direction) : (s.setDir d).pwRsp = s.pwRsp := rfl
@[simp] theorem State.setDir_env (s : State) (d : Direction) : (s.setDir d).env = s.env := rfl

@[simp] theorem State.setSeq_motorState (s : State) (q : Seq) : (s.setSeq q).motorState = s.motorState := rfl
@[simp] theorem State.setSeq_dir (s : State) (q : Seq) : (s.setSeq q).dir = s.dir := rfl
@[simp] theorem State.setSeq_pin (s : State) (q : Seq) : (s.setSeq q).pin = s.pin := rfl
@[simp] theorem State.setSeq_seq (s : State) (q : Seq) : (s.setSeq q).seq = q := rfl
@[simp] theorem State.setSeq_history (s : State) (q : Seq) : (s.setSeq q).history = s.history := rfl
@[simp] theorem State.setSeq_rsp (s : State) (q : Seq) : (s.setSeq q).rsp = s.rsp := rfl
@[simp] theorem State.setSeq_responses (s : State) (q : Seq) : (s.setSeq q).responses = s.responses := rfl
@[simp] theorem State.setSeq_pwRsp (s : State) (q : Seq) : (s.setSeq q).pwRsp = s.pwRsp := rfl
@[simp] theorem State.setSeq_env (s : State) (q : Seq) : (s.setSeq q).env = s.env := rfl

@[simp] theorem State.recordWrite_motorState (s : State) (i : Pin) (v : Level) (x : PadAnswer) :
    (s.recordWrite i v x).motorState = s.motorState := rfl
@[simp] theorem State.recordWrite_dir (s : State) (i : Pin) (v : Level) (x : PadAnswer) :
    (s.recordWrite i v x).dir = s.dir := rfl
@[simp] theorem State.recordWrite_pin (s : State) (i : Pin) (v : Level) (x : PadAnswer) :
    (s.recordWrite i v x).pin = writePin s.pin i (levelAfter v x) := rfl
@[simp] theorem State.recordWrite_seq (s : State) (i : Pin) (v : Level) (x : PadAnswer) :
    (s.recordWrite i v x).seq = s.seq := rfl
@[simp] theorem State.recordWrite_history (s : State) (i : Pin) (v : Level) (x : PadAnswer) :
    (s.recordWrite i v x).history = s.history ++ [{ pin := i, level := v, outcome := resultOf x }] := rfl
@[simp] theorem State.recordWrite_rsp (s : State) (i : Pin) (v : Level) (x : PadAnswer) :
    (s.recordWrite i v x).rsp = s.rsp := rfl
@[simp] theorem State.recordWrite_responses (s : State) (i : Pin) (v : Level) (x : PadAnswer) :
    (s.recordWrite i v x).responses = s.responses := rfl
@[simp] theorem State.recordWrite_pwRsp (s : State) (i : Pin) (v : Level) (x : PadAnswer) :
    (s.recordWrite i v x).pwRsp = some (resultOf x) := rfl
@[simp] theorem State.recordWrite_env (s : State) (i : Pin) (v : Level) (x : PadAnswer) :
    (s.recordWrite i v x).env = s.env.afterRequests 1 := rfl

@[simp] theorem State.respond_motorState (s : State) (r : Response) : (s.respond r).motorState = s.motorState := rfl
@[simp] theorem State.respond_dir (s : State) (r : Response) : (s.respond r).dir = s.dir := rfl
@[simp] theorem State.respond_pin (s : State) (r : Response) : (s.respond r).pin = s.pin := rfl
@[simp] theorem State.respond_seq (s : State) (r : Response) : (s.respond r).seq = .idle := rfl
@[simp] theorem State.respond_history (s : State) (r : Response) : (s.respond r).history = s.history := rfl
@[simp] theorem State.respond_rsp (s : State) (r : Response) : (s.respond r).rsp = some r := rfl
@[simp] theorem State.respond_responses (s : State) (r : Response) :
    (s.respond r).responses = s.responses ++ [r] := rfl
@[simp] theorem State.respond_pwRsp (s : State) (r : Response) : (s.respond r).pwRsp = s.pwRsp := rfl
@[simp] theorem State.respond_env (s : State) (r : Response) : (s.respond r).env = s.env := rfl

@[simp] theorem State.raisePinWriteError_motorState (s : State) (reason : Reason) :
    (s.raisePinWriteError reason).motorState = s.motorState := rfl
@[simp] theorem State.raisePinWriteError_dir (s : State) (reason : Reason) :
    (s.raisePinWriteError reason).dir = s.dir := rfl
@[simp] theorem State.raisePinWriteError_pin (s : State) (reason : Reason) :
    (s.raisePinWriteError reason).pin = s.pin := rfl
@[simp] theorem State.raisePinWriteError_seq (s : State) (reason : Reason) :
    (s.raisePinWriteError reason).seq = .idle := rfl
@[simp] theorem State.raisePinWriteError_history (s : State) (reason : Reason) :
    (s.raisePinWriteError reason).history = s.history := rfl
@[simp] theorem State.raisePinWriteError_rsp (s : State) (reason : Reason) :
    (s.raisePinWriteError reason).rsp = some (.pinWriteError reason) := rfl
@[simp] theorem State.raisePinWriteError_responses (s : State) (reason : Reason) :
    (s.raisePinWriteError reason).responses = s.responses ++ [.pinWriteError reason] := rfl
@[simp] theorem State.raisePinWriteError_pwRsp (s : State) (reason : Reason) :
    (s.raisePinWriteError reason).pwRsp = s.pwRsp := rfl
@[simp] theorem State.raisePinWriteError_env (s : State) (reason : Reason) :
    (s.raisePinWriteError reason).env = s.env := rfl

@[simp] theorem State.advance_motorState (s : State) : s.advance.motorState = nextState s.dir s.motorState := rfl
@[simp] theorem State.advance_dir (s : State) : s.advance.dir = s.dir := rfl
@[simp] theorem State.advance_pin (s : State) : s.advance.pin = s.pin := rfl
@[simp] theorem State.advance_seq (s : State) : s.advance.seq = s.seq := rfl
@[simp] theorem State.advance_history (s : State) : s.advance.history = s.history := rfl
@[simp] theorem State.advance_rsp (s : State) : s.advance.rsp = s.rsp := rfl
@[simp] theorem State.advance_responses (s : State) : s.advance.responses = s.responses := rfl
@[simp] theorem State.advance_pwRsp (s : State) : s.advance.pwRsp = s.pwRsp := rfl
@[simp] theorem State.advance_env (s : State) : s.advance.env = s.env := rfl

@[simp] theorem State.atEdge_motorState (s : State) : s.atEdge.motorState = s.motorState := rfl
@[simp] theorem State.atEdge_dir (s : State) : s.atEdge.dir = s.dir := rfl
@[simp] theorem State.atEdge_pin (s : State) : s.atEdge.pin = s.pin := rfl
@[simp] theorem State.atEdge_seq (s : State) : s.atEdge.seq = s.seq := rfl
@[simp] theorem State.atEdge_history (s : State) : s.atEdge.history = s.history := rfl
@[simp] theorem State.atEdge_rsp (s : State) : s.atEdge.rsp = none := rfl
@[simp] theorem State.atEdge_responses (s : State) : s.atEdge.responses = s.responses := rfl
@[simp] theorem State.atEdge_pwRsp (s : State) : s.atEdge.pwRsp = none := rfl
@[simp] theorem State.atEdge_env (s : State) : s.atEdge.env = { s.env with inputs := s.env.inputs.tail } := rfl

@[simp] theorem State.resetEvent_motorState (s : State) : s.resetEvent.motorState = .s0 := rfl
@[simp] theorem State.resetEvent_dir (s : State) : s.resetEvent.dir = .forward := rfl
@[simp] theorem State.resetEvent_pin (s : State) : s.resetEvent.pin = s.env.pinReset := rfl
@[simp] theorem State.resetEvent_seq (s : State) : s.resetEvent.seq = .idle := rfl
@[simp] theorem State.resetEvent_history (s : State) : s.resetEvent.history = [] := rfl
@[simp] theorem State.resetEvent_rsp (s : State) : s.resetEvent.rsp = none := rfl
@[simp] theorem State.resetEvent_responses (s : State) : s.resetEvent.responses = [] := rfl
@[simp] theorem State.resetEvent_pwRsp (s : State) : s.resetEvent.pwRsp = none := rfl
@[simp] theorem State.resetEvent_env (s : State) : s.resetEvent.env = s.env := rfl

@[simp] theorem State.resetWith_motorState (p : Pins) : (State.resetWith p).motorState = .s0 := rfl
@[simp] theorem State.resetWith_dir (p : Pins) : (State.resetWith p).dir = .forward := rfl
@[simp] theorem State.resetWith_pin (p : Pins) : (State.resetWith p).pin = p := rfl
@[simp] theorem State.resetWith_seq (p : Pins) : (State.resetWith p).seq = .idle := rfl
@[simp] theorem State.resetWith_history (p : Pins) : (State.resetWith p).history = [] := rfl
@[simp] theorem State.resetWith_rsp (p : Pins) : (State.resetWith p).rsp = none := rfl
@[simp] theorem State.resetWith_responses (p : Pins) : (State.resetWith p).responses = [] := rfl
@[simp] theorem State.resetWith_pwRsp (p : Pins) : (State.resetWith p).pwRsp = none := rfl
@[simp] theorem State.resetWith_pinReset (p : Pins) : (State.resetWith p).env.pinReset = p := rfl

@[simp] theorem State.renameReasons_motorState (f : Reason → Reason) (s : State) :
    (s.renameReasons f).motorState = s.motorState := rfl
@[simp] theorem State.renameReasons_dir (f : Reason → Reason) (s : State) : (s.renameReasons f).dir = s.dir := rfl
@[simp] theorem State.renameReasons_pin (f : Reason → Reason) (s : State) : (s.renameReasons f).pin = s.pin := rfl
@[simp] theorem State.renameReasons_seq (f : Reason → Reason) (s : State) : (s.renameReasons f).seq = s.seq := rfl
@[simp] theorem State.renameReasons_history (f : Reason → Reason) (s : State) :
    (s.renameReasons f).history = s.history.map (renameEvent f) := rfl
@[simp] theorem State.renameReasons_rsp (f : Reason → Reason) (s : State) :
    (s.renameReasons f).rsp = s.rsp.map (renameResponse f) := rfl
@[simp] theorem State.renameReasons_responses (f : Reason → Reason) (s : State) :
    (s.renameReasons f).responses = s.responses.map (renameResponse f) := rfl
@[simp] theorem State.renameReasons_pwRsp (f : Reason → Reason) (s : State) :
    (s.renameReasons f).pwRsp = s.pwRsp.map (renameResult f) := rfl
@[simp] theorem State.renameReasons_env (f : Reason → Reason) (s : State) :
    (s.renameReasons f).env = { s.env with pads := s.env.pads.map (renameAnswer f) } := rfl
@[simp] theorem State.renameReasons_edge (f : Reason → Reason) (s : State) :
    (s.renameReasons f).edge = s.edge := rfl

end Sys2Proof.Machine
end

