-- ==== Sys2Proof/Laws/Ops.lean ====
section
/-!
SUPPORT. What the shared operations do, said once for each: the pin write, one turn of the commit, the end of a command, each
meaning.
-/

namespace Sys2Proof.Machine

/-- A pin write is one answered request, whichever of the two requests it is (R103). -/
theorem State.pinWrite_eq (s : State) (i : Pin) (v : Level) :
    s.pinWrite i v = (resultOf (s.padAnswer i v), s.recordWrite i v (s.padAnswer i v)) := by
  cases v <;> rfl

/-- After one request the platform's coming answers are the old ones, one further on. -/
theorem State.answer_recordWrite (s : State) (i : Pin) (v : Level) (x : PadAnswer) (n : Nat) (h : List Event)
    (j : Pin) (w : Level) : (s.recordWrite i v x).answer n h j w = s.answer (n + 1) h j w := by
  simp only [State.answer, State.recordWrite_env, Env.afterRequests, List.getElem?_drop]
  rw [Nat.add_assoc, Nat.add_comm 1 n]

@[simp] theorem State.answer_setMotorState (s : State) (m : MotorState) (n : Nat) (h : List Event) (i : Pin)
    (v : Level) : (s.setMotorState m).answer n h i v = s.answer n h i v := rfl

@[simp] theorem State.commitAnswer_advance (s : State) (t : Pins) (i : Pin) :
    s.advance.commitAnswer t i = s.commitAnswer t i := rfl

theorem State.commitPins_nil (s : State) (t : Pins) : s.commitPins t [] = (none, s) := rfl

/-- One turn of the commit loop whose write succeeds. -/
theorem State.commitPins_ok {s : State} {t : Pins} {i : Pin} (rest : List Pin)
    (h : s.padAnswer i (readPin t i) = .ok) :
    s.commitPins t (i :: rest) = (s.recordWrite i (readPin t i) .ok).commitPins t rest := by
  simp only [State.commitPins, State.pinWrite_eq, h, resultOf]

/-- One turn of the commit loop whose write fails. -/
theorem State.commitPins_fail {s : State} {t : Pins} {i : Pin} {reason : Reason} {level : Level} (rest : List Pin)
    (h : s.padAnswer i (readPin t i) = .fail reason level) :
    s.commitPins t (i :: rest) = (some reason, s.recordWrite i (readPin t i) (.fail reason level)) := by
  simp only [State.commitPins, State.pinWrite_eq, h, resultOf]

/-- Requests add up. -/
theorem Env.afterRequests_add (e : Env) (m n : Nat) : (e.afterRequests m).afterRequests n = e.afterRequests (m + n) := by
  simp only [Env.afterRequests, List.drop_drop, Nat.add_assoc]

theorem Env.afterRequests_zero (e : Env) : e.afterRequests 0 = e := rfl

/-- A command's end in the two ways it can end. -/
@[simp] theorem State.conclude_none (s : State) : State.conclude (none, s) = s.respond .ok := rfl
@[simp] theorem State.conclude_some (reason : Reason) (s : State) :
    State.conclude (some reason, s) = s.raisePinWriteError reason := rfl

/-- What each instruction answers: a next state, always. -/
theorem exec_step (s : State) :
    exec .step s = .next (State.conclude (s.advance.commit (pattern s.advance.motorState))) := rfl
theorem exec_stop (s : State) : exec .stop s = .next (State.conclude (s.commit (allPins false))) := rfl
theorem exec_setDirection (d : Direction) (s : State) :
    exec (.setDirection d) s = .next ((s.setDir d).respond .ok) := rfl
theorem exec_pinSetLow (i : Pin) (s : State) :
    exec (.pinSetLow i) s = .next (s.recordWrite i false (s.padAnswer i false)) := rfl
theorem exec_pinSetHigh (i : Pin) (s : State) :
    exec (.pinSetHigh i) s = .next (s.recordWrite i true (s.padAnswer i true)) := rfl

/-- The controller's request as the instruction its word decodes to. -/
theorem exec_request (s : State) (k : Pin) (v : Level) :
    exec (decode (.pinw (pinwWord k v))) s = .next (s.recordWrite k v (s.padAnswer k v)) := by
  rw [decode_pinwWord]
  cases v <;> rfl

end Sys2Proof.Machine
end

