-- ==== Sys2Proof/Laws/Commit.lean ====
section
/-!
SUPPORT. Everything `Commit` can do (R80): all four writes succeed, or the first failing one is the one to pin `i`.
-/

namespace Sys2Proof.Machine

/-- The state after the first `n` writes of a commit of `t` have succeeded. -/
def State.afterWrites (s : State) (t : Pins) (n : Nat) : State :=
  { s with
    pin := (writeOrder.take n).foldl (fun p i => writePin p i (readPin t i)) s.pin
    history := s.history ++ okEvents t n
    pwRsp := if n = 0 then s.pwRsp else some .ok
    env := s.env.afterRequests n }

theorem State.afterWrites_zero (s : State) (t : Pins) : s.afterWrites t 0 = s := by
  simp [State.afterWrites, okEvents, Env.afterRequests]

/-- One more successful write, the one whose turn it is. -/
theorem State.afterWrites_succ (s : State) (t : Pins) (i : Pin) :
    (s.afterWrites t (pinIndex i)).recordWrite i (readPin t i) .ok = s.afterWrites t (pinIndex i + 1) := by
  cases i <;>
    simp [State.afterWrites, State.recordWrite, okEvents, writeOrder, levelAfter, resultOf, Env.afterRequests_add]

/-- What the platform answers to the write of pin `i` once the ones before it have succeeded. -/
theorem State.padAnswer_afterWrites (s : State) (t : Pins) (i : Pin) :
    (s.afterWrites t (pinIndex i)).padAnswer i (readPin t i) = s.commitAnswer t i := by
  simp only [State.padAnswer, State.commitAnswer, State.answer, State.afterWrites, Env.afterRequests,
    List.getElem?_drop, Nat.add_zero]

/-- After four successful writes the pins are the tuple. -/
theorem State.afterWrites_four_pin (s : State) (t : Pins) : (s.afterWrites t 4).pin = t := by
  cases s with | mk _ _ p => cases p; rfl

/-- After `n` successful writes the pins before `n` hold the tuple and the others what they held. -/
theorem State.readPin_afterWrites (s : State) (t : Pins) {n : Nat} (hn : n ≤ 4) (j : Pin) :
    readPin (s.afterWrites t n).pin j = if pinIndex j < n then readPin t j else readPin s.pin j := by
  have : n = 0 ∨ n = 1 ∨ n = 2 ∨ n = 3 ∨ n = 4 := by omega
  rcases this with rfl | rfl | rfl | rfl | rfl <;> cases j <;> rfl

/-- The pins from `i` on, in the order of a commit. -/
theorem writeOrder_drop (i : Pin) :
    writeOrder.drop (pinIndex i) = i :: writeOrder.drop (pinIndex i + 1) := by
  cases i <;> rfl

/-- A commit whose writes before pin `i` succeed stands at pin `i` after them. -/
theorem State.commit_reaches (s : State) (t : Pins) (i : Pin)
    (h : ∀ j, pinIndex j < pinIndex i → s.commitAnswer t j = .ok) :
    s.commit t = (s.afterWrites t (pinIndex i)).commitPins t (writeOrder.drop (pinIndex i)) := by
  have turn : ∀ j, s.commitAnswer t j = .ok →
      (s.afterWrites t (pinIndex j)).commitPins t (writeOrder.drop (pinIndex j))
        = (s.afterWrites t (pinIndex j + 1)).commitPins t (writeOrder.drop (pinIndex j + 1)) := by
    intro j hj
    rw [writeOrder_drop, State.commitPins_ok _ ((s.padAnswer_afterWrites t j).trans hj), State.afterWrites_succ]
  have start : s.commit t = (s.afterWrites t (pinIndex .a)).commitPins t (writeOrder.drop (pinIndex .a)) := by
    show s.commit t = (s.afterWrites t 0).commitPins t writeOrder
    rw [State.afterWrites_zero]; rfl
  cases i with
  | a => exact start
  | b => exact start.trans (turn .a (h .a (by decide)))
  | c => exact (start.trans (turn .a (h .a (by decide)))).trans (turn .b (h .b (by decide)))
  | d =>
    exact ((start.trans (turn .a (h .a (by decide)))).trans (turn .b (h .b (by decide)))).trans
      (turn .c (h .c (by decide)))

/-- A commit none of whose writes fails. -/
theorem State.commit_of_writesSucceed {s : State} {t : Pins} (h : s.writesSucceed t) :
    s.commit t = (none, s.afterWrites t 4) := by
  rw [State.commit_reaches s t .d (fun j _ => h j), writeOrder_drop,
    State.commitPins_ok _ ((s.padAnswer_afterWrites t .d).trans (h .d)), State.afterWrites_succ]
  rfl

/-- A commit whose first failing write is the one to pin `i`. -/
theorem State.commit_of_failsFirstAt {s : State} {t : Pins} {i : Pin} {reason : Reason} {level : Level}
    (h : s.failsFirstAt t i reason level) :
    s.commit t
      = (some reason, (s.afterWrites t (pinIndex i)).recordWrite i (readPin t i) (.fail reason level)) := by
  rw [State.commit_reaches s t i h.1, writeOrder_drop,
    State.commitPins_fail _ ((s.padAnswer_afterWrites t i).trans h.2)]

end Sys2Proof.Machine
end

