-- ==== Sys2Proof/Laws/PerInstr.lean ====
section
/-!
SUPPORT. A statement for every instruction, made constructor by constructor: its word stands in the format of its own
interface, fits that format's width, and is well formed there and on no other interface.
-/

namespace Sys2Proof.Laws

/-- What the family `Form` says of an instruction. -/
def Form.Statement (i : Instr) : Prop :=
  (encode i).toNat < 2 ^ (encode i).width ∧ readWord i.iface (encode i).toNat = .ok (encode i) ∧
    ∀ f, i.wellFormedOn f = true ↔ f = i.iface

theorem Form.step : Form.Statement .step := by
  refine ⟨by decide, rfl, ?_⟩; intro f; cases f <;> decide

theorem Form.stop : Form.Statement .stop := by
  refine ⟨by decide, rfl, ?_⟩; intro f; cases f <;> decide

theorem Form.setDirection (d : Direction) : Form.Statement (.setDirection d) := by
  cases d <;> (refine ⟨by decide, rfl, ?_⟩; intro f; cases f <;> decide)

theorem Form.pinSetLow (sel : Pin) : Form.Statement (.pinSetLow sel) := by
  cases sel <;> (refine ⟨by decide, rfl, ?_⟩; intro f; cases f <;> decide)

theorem Form.pinSetHigh (sel : Pin) : Form.Statement (.pinSetHigh sel) := by
  cases sel <;> (refine ⟨by decide, rfl, ?_⟩; intro f; cases f <;> decide)

end Sys2Proof.Laws
end

