-- ==== Sys2Proof/Laws/Step.lean ====
section
/-!
SUPPORT. What one step can do, said once: the cases by what the host drives and what is in progress, and the inversion
lemma from which every statement about a step is derived.
-/

namespace Sys2Proof.Machine

/-- A step at which the host drives reset. -/
theorem step_of_rst {s : State} (h : s.edge.rst = true) : step s = .next s.atEdge.resetEvent := by
  simp [step, State.tick, h]

/-- A step of an idle block to which nothing is offered. -/
theorem step_of_no_offer {s : State} (hr : s.edge.rst = false) (hq : s.seq = .idle) (hv : s.edge.cmdValid = false) :
    step s = .next s.atEdge := by
  simp [step, State.tick, State.fetch, hr, hq, hv]

/-- A step of a busy block: the controller's request, and what the controller makes of its result. -/
theorem step_of_busy {s : State} {op : PinOp} {k : Pin} {t : Pins} (hr : s.edge.rst = false)
    (hq : s.seq = .busy op k t) :
    step s = .next ((s.atEdge.recordWrite k (readPin t k) (s.padAnswer k (readPin t k))).requestDone op k t) := by
  have hq' : s.atEdge.seq = .busy op k t := hq
  have ha : s.atEdge.padAnswer k (readPin t k) = s.padAnswer k (readPin t k) := rfl
  simp only [step, State.tick, hr, State.fetch, hq, State.runFetched, hq', exec_request, ha, Bool.false_eq_true,
    if_false]

/-- A step that accepts a host command and opens it, in the pin-write grain. -/
theorem step_of_open {s : State} {op : PinOp} (hr : s.edge.rst = false) (hq : s.seq = .idle)
    (hv : s.edge.cmdValid = true) (hg : s.env.grain = .pinWrite) (ho : opOf (decodeCmd s.edge.cmd) = some op) :
    step s = .next (s.atEdge.openCommand op) := by
  have hq' : s.atEdge.seq = .idle := hq
  have hg' : s.atEdge.env.grain = .pinWrite := hg
  simp only [step, State.tick, hr, State.fetch, hq, hv, if_true, State.runFetched, hq', hg', decode, ho,
    Bool.false_eq_true, if_false]

/-- A step that runs an offered host command: whole in the command grain, and in either grain when the command writes
no pins. -/
theorem step_of_exec {s : State} (hr : s.edge.rst = false) (hq : s.seq = .idle) (hv : s.edge.cmdValid = true)
    (hg : s.env.grain = .command ∨ opOf (decodeCmd s.edge.cmd) = none) :
    step s = exec (decodeCmd s.edge.cmd) s.atEdge := by
  have hq' : s.atEdge.seq = .idle := hq
  have hg' : s.atEdge.env.grain = s.env.grain := rfl
  simp only [step, State.tick, hr, State.fetch, hq, hv, if_true, State.runFetched, hq', hg', decode,
    Bool.false_eq_true, if_false]
  rcases hg with h | h
  · rw [h]
  · rw [h]; cases s.env.grain <;> rfl

/-- Everything a step can do. -/
theorem step_cases {s t : State} (h : step s = .next t) :
    (s.edge.rst = true ∧ t = s.atEdge.resetEvent) ∨
    (s.edge.rst = false ∧ ∃ op k u, s.seq = .busy op k u ∧
      t = (s.atEdge.recordWrite k (readPin u k) (s.padAnswer k (readPin u k))).requestDone op k u) ∨
    (s.edge.rst = false ∧ s.seq = .idle ∧ s.edge.cmdValid = false ∧ t = s.atEdge) ∨
    (s.edge.rst = false ∧ s.seq = .idle ∧ s.edge.cmdValid = true ∧
      (s.env.grain = .command ∨ opOf (decodeCmd s.edge.cmd) = none) ∧
      exec (decodeCmd s.edge.cmd) s.atEdge = .next t) ∨
    (s.edge.rst = false ∧ s.seq = .idle ∧ s.edge.cmdValid = true ∧ s.env.grain = .pinWrite ∧
      ∃ op, opOf (decodeCmd s.edge.cmd) = some op ∧ t = s.atEdge.openCommand op) := by
  cases hr : s.edge.rst with
  | true => rw [step_of_rst hr] at h; cases h; exact .inl ⟨rfl, rfl⟩
  | false =>
    refine .inr ?_
    cases hq : s.seq with
    | busy op k u => rw [step_of_busy hr hq] at h; cases h; exact .inl ⟨rfl, op, k, u, rfl, rfl⟩
    | idle =>
      refine .inr ?_
      cases hv : s.edge.cmdValid with
      | false => rw [step_of_no_offer hr hq hv] at h; cases h; exact .inl ⟨rfl, rfl, rfl, rfl⟩
      | true =>
        refine .inr ?_
        by_cases hg : s.env.grain = .command ∨ opOf (decodeCmd s.edge.cmd) = none
        · rw [step_of_exec hr hq hv hg] at h
          exact .inl ⟨rfl, rfl, rfl, hg, h⟩
        · have hp : s.env.grain = .pinWrite := by
            cases hx : s.env.grain with
            | command => exact absurd (.inl hx) hg
            | pinWrite => rfl
          obtain ⟨op, ho⟩ := Option.ne_none_iff_exists'.mp fun hn => hg (.inr hn)
          rw [step_of_open hr hq hv hp ho] at h; cases h
          exact .inr ⟨rfl, rfl, rfl, hp, op, ho, rfl⟩

/-- No edge, no acceptance; and among `n + 1` edges a word is accepted at the first or among the `n` after it. -/
@[simp] theorem State.acceptsWordWithin_zero (s : State) (w : CmdWord) : ¬ s.acceptsWordWithin w 0 := fun h => h
theorem State.acceptsWordWithin_succ {s u : State} (w : CmdWord) (n : Nat) (h : step s = .next u) :
    s.acceptsWordWithin w (n + 1) ↔ s.acceptsWord w ∨ u.acceptsWordWithin w n := by
  simp [State.acceptsWordWithin, h]

end Sys2Proof.Machine
end

