-- ==== Sys2Proof/Tests/Slice0.lean ====
section
/-!
SUPPORT. The model's own tests. Expected results are the spec's: words from 30_encoding.md R47, R49 (V9 of
95_test_vectors.md), results from the rows of its V3 to V8, V10 and V11 and from the examples in the rules. The
theorems named witness_... each show a concrete state that meets all the hypotheses of the obligation they are named
after; where an obligation has several clauses or cases, one witness each.
-/

namespace Sys2Proof.Tests

open Sys2Proof.Machine

/-! ## Well-formedness refuses -/

theorem test_wf_refuses_request_from_host : Instr.wellFormedOn .cmd (.pinSetHigh .a) = false := by decide
theorem test_wf_refuses_command_to_driver : Instr.wellFormedOn .pinw .step = false := by decide
theorem test_wf_refuses_program_with_request : wellFormedProgram [.step, .pinSetLow .d, .stop] = false := by decide
theorem test_wf_accepts_program : wellFormedProgram [.step, .setDirection .reverse, .stop] = true := by decide

/-! ## Words -/

theorem test_decode_step : decode (.cmd 0b00#2) = .step := by decide
theorem test_decode_stop : decode (.cmd 0b01#2) = .stop := by decide
theorem test_decode_forward : decode (.cmd 0b10#2) = .setDirection .forward := by decide
theorem test_decode_reverse : decode (.cmd 0b11#2) = .setDirection .reverse := by decide
theorem test_decode_low_b : decode (.pinw 0b010#3) = .pinSetLow .b := by decide
theorem test_decode_low_c : decode (.pinw 0b100#3) = .pinSetLow .c := by decide
theorem test_decode_high_c : decode (.pinw 0b101#3) = .pinSetHigh .c := by decide
theorem test_decode_high_d : decode (.pinw 0b111#3) = .pinSetHigh .d := by decide
theorem test_encode_reverse : encode (.setDirection .reverse) = .cmd 0b11#2 := by decide
theorem test_encode_low_d : encode (.pinSetLow .d) = .pinw 0b110#3 := by decide
theorem test_cmd_word_too_wide : decodeOn .cmd 4 = .error .cmdWordTooWide := by rfl
theorem test_pinw_word_too_wide : decodeOn .pinw 8 = .error .pinwWordTooWide := by rfl
theorem test_table_word_byte : decodeTableWord 8 6 = some (.pinSetLow .d) ∧ decodeTableWord 8 8 = none := by decide
theorem test_state_code_nine_refused : MotorState.ofCode? 9#4 = none := by decide
theorem test_text_reads_back : instrOfText? "pin_set_low c" = some (.pinSetLow .c) := by decide
theorem test_text_toggle_unknown : instrOfText? "toggle" = none := by decide
theorem test_listing_words :
    (expandListing [.rev, .steps 2, .stop, .step]).map (·.cmd) = [0b11#2, 0b00#2, 0b00#2, 0b01#2, 0b00#2] := by decide

/-! ## Small states -/

/-- A ready block with these registers, the platform's coming answers, and nothing offered. -/
def ready (m : MotorState) (d : Direction) (p : Pins) (pads : List PadAnswer) : State :=
  { State.reset with motorState := m, dir := d, pin := p, env := { State.reset.env with pads := pads } }

/-- The same block with a command in progress. -/
def working (q : Seq) (m : MotorState) (p : Pins) (pads : List PadAnswer) : State :=
  { ready m .forward p pads with seq := q }

/-- The same state with what the host drives next. -/
def driven (edges : List HostEdge) (s : State) : State :=
  { s with env := { s.env with inputs := edges } }

/-- The same state in the pin-write grain. -/
def perWrite (s : State) : State :=
  { s with env := { s.env with grain := .pinWrite } }

def allOk : List PadAnswer := [.ok, .ok, .ok, .ok]

/-- `n` writes that succeed and then one that fails and leaves the pin high. -/
def failAfter (n : Nat) : List PadAnswer := List.replicate n .ok ++ [.fail Reason.first true]

/-- Does the outcome pass the check? -/
def passes (o : Host.Outcome State Fault Refusal) (check : State → Bool) : Bool :=
  match o with
  | .next t => check t
  | .fault _ => false
  | .refused _ => false

/-! ## Instructions -/

theorem test_step_from_3 :
    passes (exec .step (ready .s3 .forward ⟨false, false, true, false⟩ allOk)) (fun t =>
      t.motorState == .s4 && t.pin == ⟨false, true, true, false⟩ && t.rsp == some .ok && t.history.length == 4) = true := by
  decide

theorem test_step_reverse_from_0_fails_at_b :
    passes (exec .step (ready .s0 .reverse ⟨false, false, false, false⟩ (failAfter 1))) (fun t =>
      t.motorState == .s8 && t.pin == ⟨true, true, false, false⟩ && t.rsp == some (.pinWriteError Reason.first)
        && t.history.length == 2) = true := by
  decide

theorem test_stop_at_6 :
    passes (exec .stop (ready .s6 .reverse ⟨true, true, false, false⟩ allOk)) (fun t =>
      t.motorState == .s6 && t.dir == .reverse && t.pin == allPins false && t.rsp == some .ok) = true := by
  decide

theorem test_stop_fails_at_a :
    passes (exec .stop (ready .s2 .forward ⟨false, false, true, true⟩ (failAfter 0))) (fun t =>
      t.motorState == .s2 && t.pin == ⟨true, false, true, true⟩ && t.history == [⟨.a, false, .fail Reason.first⟩]) = true := by
  decide

theorem test_set_direction :
    passes (exec (.setDirection .reverse) (ready .s5 .forward ⟨false, true, false, false⟩ [])) (fun t =>
      t.dir == .reverse && t.motorState == .s5 && t.pin == ⟨false, true, false, false⟩ && t.history == []
        && t.rsp == some .ok) = true := by
  decide

theorem test_pin_set_high_c :
    passes (exec (.pinSetHigh .c) (ready .s1 .forward ⟨false, false, false, true⟩ allOk)) (fun t =>
      t.pin == ⟨false, false, true, true⟩ && t.history == [⟨.c, true, .ok⟩]) = true := by
  decide

theorem test_pin_set_low_d_fails :
    passes (exec (.pinSetLow .d) (ready .s1 .forward ⟨false, false, true, true⟩ (failAfter 0))) (fun t =>
      t.pin == ⟨false, false, true, true⟩ && t.pwRsp == some (.fail Reason.first)) = true := by
  decide

/-! ## Steps -/

theorem test_placed_step_runs :
    passes (step (State.reset.withFetchWord 2 0)) (fun _ => true) = true := by decide
theorem test_placed_reverse_runs :
    passes (step (State.reset.withFetchWord 2 3)) (fun t => t.dir == .reverse && t.rsp == some .ok) = true := by decide
theorem test_placed_request_is_fetched :
    (State.reset.withFetchWord 3 5).fetch = some (.pinw 5#3) := by decide

/-- V10: reset during a STEP from state 1, after the writes of A and B. -/
theorem test_reset_during_step :
    passes (step (driven [edgeReset]
      (working (.busy .step .c ⟨false, false, true, true⟩) .s2 ⟨false, false, false, true⟩ allOk))) (fun t =>
        t.motorState == .s0 && t.pin == allPins false && t.seq == .idle && t.rsp == none && t.responses == []) = true := by
  decide

/-- V11: STOP at `1001`, the write of pin A gives `0001` on the pads, and pin B is due. -/
theorem test_one_write_of_a_stop :
    passes (step (working (.busy .stop .a (allPins false)) .s8 ⟨true, false, false, true⟩ allOk)) (fun t =>
      t.pin == ⟨false, false, false, true⟩ && t.seq == .busy .stop .b (allPins false) && t.rsp == none) = true := by
  decide

/-- R133: reset and an offered command at the same edge. -/
theorem test_reset_beats_command :
    passes (step (driven [{ rst := true, cmdValid := true, cmd := 0b11#2 }]
      (ready .s5 .reverse ⟨false, true, false, false⟩ []))) (fun t =>
        t.dir == .forward && t.motorState == .s0 && t.responses == []) = true := by
  decide

/-! ## Witnesses: the hypotheses of the obligations can be met -/

theorem witness_CmdWordsDecode : (0b01#2 : CmdWord).getLsbD 1 = false ∧ (0b10#2 : CmdWord).getLsbD 1 = true := by decide

/-- The first numbers that are too wide, 4 for a CMD word and 8 for a PINW word; the last that fit are 3 and 7. -/
theorem witness_TableWordsDecode :
    4 ≤ 4 ∧ 8 ≤ 8 ∧ decodeTableWord 2 3 = some (.setDirection .reverse) ∧ decodeTableWord 3 7 = some (.pinSetHigh .d) := by
  decide

/-- The ends of the traversal cycle, for the statements about states 1 to 8, and an odd and an even one. -/
theorem witness_states_of_the_cycle :
    MotorState.s1 ≠ .s0 ∧ MotorState.s8 ≠ .s0 ∧ MotorState.s1.label % 2 = 1 ∧ MotorState.s8.label % 2 = 0 := by decide

/-- A STOP and a STEP after it that both answer OK, and a STEP without the STOP that does. -/
theorem witness_StopThenStepResumes :
    passes (exec .stop (ready .s6 .reverse ⟨true, true, false, false⟩ (allOk ++ allOk))) (fun u =>
      u.rsp == some .ok && passes (exec .step u) (fun v => v.rsp == some .ok && v.motorState == .s5)) = true ∧
    passes (exec .step (ready .s6 .reverse ⟨true, true, false, false⟩ (allOk ++ allOk))) (fun w => w.rsp == some .ok)
      = true := by decide

/-- PG4: a STEP that fails at its third write, and the STEP after it that answers OK. -/
theorem witness_FailedStepIsNotRetried :
    passes (exec .step (ready .s1 .forward ⟨false, false, false, true⟩ (failAfter 2 ++ allOk))) (fun u =>
      u.rsp == some (.pinWriteError Reason.first) && u.motorState == .s2 && passes (exec .step u) (fun v =>
        v.rsp == some .ok && v.motorState == .s3 && v.pin == ⟨false, false, true, false⟩)) = true := by decide

theorem witness_CommandsIgnoreThePins :
    passes (exec .step (ready .s3 .forward (allPins true) allOk)) (fun t => t.rsp == some .ok) = true ∧
    passes (exec .stop (ready .s3 .forward (allPins true) allOk)) (fun t => t.rsp == some .ok) = true := by decide

theorem witness_PortsShowTheState :
    rspReasonO { State.reset with rsp := some (.pinWriteError Reason.first) } = some Reason.first ∧
    pwReasonO { State.reset with pwRsp := some (.fail Reason.first) } = some Reason.first ∧
    (working (.busy .stop .d (allPins false)) .s2 (allPins true) []).seq = .busy .stop .d (allPins false) := by decide

theorem witness_StepWhenNoWriteFails :
    (ready .s8 .forward ⟨true, false, false, true⟩ allOk).writesSucceed (pattern (nextState .forward .s8)) := by
  intro i; cases i <;> rfl

theorem witness_StepWhenAWriteFails_a :
    (ready .s1 .forward ⟨false, false, false, true⟩ (failAfter 0)).failsFirstAt
      (pattern (nextState .forward .s1)) .a Reason.first true := by
  refine ⟨?_, rfl⟩; intro j; cases j <;> decide

theorem witness_StepWhenAWriteFails_b :
    (ready .s0 .reverse ⟨false, false, false, false⟩ (failAfter 1)).failsFirstAt
      (pattern (nextState .reverse .s0)) .b Reason.first true := by
  refine ⟨?_, rfl⟩; intro j; cases j <;> decide

theorem witness_StepWhenAWriteFails_c :
    (ready .s1 .forward ⟨false, false, false, true⟩ (failAfter 2)).failsFirstAt
      (pattern (nextState .forward .s1)) .c Reason.first true := by
  refine ⟨?_, rfl⟩; intro j; cases j <;> decide

theorem witness_StepWhenAWriteFails_d :
    (ready .s1 .forward ⟨false, false, false, true⟩ (failAfter 3)).failsFirstAt
      (pattern (nextState .forward .s1)) .d Reason.first true := by
  refine ⟨?_, rfl⟩; intro j; cases j <;> decide

theorem witness_StopWhenNoWriteFails :
    (ready .s6 .reverse ⟨true, true, false, false⟩ allOk).writesSucceed (allPins false) := by
  intro i; cases i <;> rfl

theorem witness_StopWhenAWriteFails_a :
    (ready .s2 .forward ⟨false, false, true, true⟩ (failAfter 0)).failsFirstAt (allPins false) .a Reason.first true := by
  refine ⟨?_, rfl⟩; intro j; cases j <;> decide

theorem witness_StopWhenAWriteFails_d :
    (ready .s2 .forward ⟨false, false, true, true⟩ (failAfter 3)).failsFirstAt (allPins false) .d Reason.first true := by
  refine ⟨?_, rfl⟩; intro j; cases j <;> decide

/-- A commit that succeeds and one that fails first at pin C. -/
theorem witness_CommitSucceedsOrFailsFirstOnce :
    ((ready .s1 .forward (allPins false) allOk).commit (pattern .s2)).1 = none ∧
      ((ready .s1 .forward (allPins false) (failAfter 2)).commit (pattern .s2)).1 = some Reason.first := by decide

theorem witness_PinSetHighEffect_ok : (ready .s1 .forward (allPins false) allOk).padAnswer .a true = .ok := by rfl
theorem witness_PinSetHighEffect_fail :
    (ready .s1 .forward (allPins false) (failAfter 0)).padAnswer .a true = .fail Reason.first true := by rfl
theorem witness_PinSetLowEffect_ok : (ready .s1 .forward (allPins true) allOk).padAnswer .d false = .ok := by rfl
theorem witness_PinSetLowEffect_fail :
    (ready .s1 .forward (allPins true) (failAfter 0)).padAnswer .d false = .fail Reason.first true := by rfl

theorem witness_CommitEventsInOrder_step :
    ∃ u, exec .step (ready .s1 .forward (allPins false) allOk) = .next u := ⟨_, rfl⟩
theorem witness_CommitEventsInOrder_stop :
    ∃ u, exec .stop (ready .s1 .forward (allPins false) (failAfter 3)) = .next u := ⟨_, rfl⟩

theorem witness_TurnGoesBackOneState : Direction.reverse ≠ (ready .s1 .forward (allPins false) allOk).dir := by decide

/-- An idle block that is offered a command, in a grain. -/
def offered (w : CmdWord) : State := driven [edgeOffer w] (ready .s1 .forward ⟨false, false, false, true⟩ allOk)

theorem witness_StepRunsTheOfferedCommand :
    (offered 0b00#2).seq = .idle ∧ (offered 0b00#2).edge.rst = false ∧ (offered 0b00#2).edge.cmdValid = true ∧
      (offered 0b00#2).env.grain = .command := by decide

theorem witness_BusyStepRunsTheRequest :
    (working (.busy .step .d ⟨false, false, true, true⟩) .s2 ⟨false, false, true, true⟩ allOk).seq
        = .busy .step .d ⟨false, false, true, true⟩ ∧
      (working (.busy .step .d ⟨false, false, true, true⟩) .s2 ⟨false, false, true, true⟩ allOk).edge.rst = false := by
  decide

theorem witness_PinWriteGrainAccepts (w : CmdWord) :
    (perWrite (offered w)).seq = .idle ∧ (perWrite (offered w)).edge.rst = false ∧
      (perWrite (offered w)).edge.cmdValid = true ∧ (perWrite (offered w)).env.grain = .pinWrite ∧
      (perWrite (offered w)).edge.cmd = w := ⟨rfl, rfl, rfl, rfl, rfl⟩

theorem witness_NothingHappensWithoutACommand :
    State.reset.seq = .idle ∧ State.reset.edge.rst = false ∧ State.reset.edge.cmdValid = false := by decide

theorem witness_OfferWhileBusyHasNoEffect :
    (working (.busy .stop .b (allPins false)) .s4 (allPins true) allOk).seq ≠ .idle := by decide

theorem witness_ResetWins :
    (driven [{ rst := true, cmdValid := true, cmd := 0b00#2 }]
      (working (.busy .stop .b (allPins false)) .s4 (allPins true) allOk)).edge.rst = true := by decide

theorem witness_NothingSurvivesReset :
    (driven [edgeReset] (ready .s5 .reverse (allPins true) (failAfter 0))).edge.rst = true := by decide

theorem witness_OnlyStepMovesState :
    (∃ t, step (offered 0b00#2) = .next t) ∧ (offered 0b00#2).acceptsWord 0b00#2 ∧
      ¬ (offered 0b01#2).acceptsWord 0b00#2 ∧ (driven [edgeReset] State.reset).edge.rst = true :=
  ⟨⟨_, rfl⟩, ⟨rfl, rfl⟩, fun h => absurd h.2 (by decide), rfl⟩

theorem witness_OnlySetDirectionChangesDir :
    (∃ t, step (offered 0b11#2) = .next t) ∧ (offered 0b10#2).acceptsWord 0b10#2 ∧
      (offered 0b11#2).acceptsWord 0b11#2 ∧ ¬ (offered 0b00#2).acceptsWord 0b10#2 ∧
      ¬ (offered 0b00#2).acceptsWord 0b11#2 :=
  ⟨⟨_, rfl⟩, ⟨rfl, rfl⟩, ⟨rfl, rfl⟩, fun h => absurd h.2 (by decide), fun h => absurd h.2 (by decide)⟩

theorem witness_PinsHoldWithoutAWrite :
    (∃ t, step (offered 0b10#2) = .next t) ∧ (offered 0b10#2).edge.rst = false ∧ (offered 0b10#2).seq = .idle ∧
      ¬ (offered 0b10#2).acceptsWord 0b00#2 ∧ ¬ (offered 0b10#2).acceptsWord 0b01#2 :=
  ⟨⟨_, rfl⟩, rfl, rfl, fun h => absurd h.2 (by decide), fun h => absurd h.2 (by decide)⟩

theorem witness_OneResponsePerAcceptedCommand :
    (∃ t, step (offered 0b01#2) = .next t) ∧ (offered 0b01#2).edge.rst = false ∧ accepts (offered 0b01#2) = true :=
  ⟨⟨_, rfl⟩, rfl, rfl⟩

theorem witness_SurroundingsOnlyUsedUp :
    (∃ t, step (perWrite (offered 0b01#2)) = .next t) ∧
      (∃ t, step (working (.busy .stop .b (allPins false)) .s4 (allPins true) allOk) = .next t) ∧
      ∃ t, step (driven [edgeReset] (ready .s5 .reverse (allPins true) (failAfter 0))) = .next t ∧
        (driven [edgeReset] (ready .s5 .reverse (allPins true) (failAfter 0))).edge.rst = true :=
  ⟨⟨_, rfl⟩, ⟨_, rfl⟩, _, rfl, rfl⟩

/-- The ends of the bound: a command with all four pins left to write, one with the last, and one in between. -/
theorem witness_BusyCommandEnds_a :
    (working (.busy .step .a (pattern .s4)) .s4 (allPins false) allOk).seq = .busy .step .a (pattern .s4) ∧
      (working (.busy .step .a (pattern .s4)) .s4 (allPins false) allOk).noResetFor 4 := by
  refine ⟨rfl, ?_⟩; unfold State.noResetFor; decide

theorem witness_BusyCommandEnds_b :
    (working (.busy .stop .b (allPins false)) .s4 (allPins true) (failAfter 0)).seq = .busy .stop .b (allPins false) ∧
      (working (.busy .stop .b (allPins false)) .s4 (allPins true) (failAfter 0)).noResetFor 4 := by
  refine ⟨rfl, ?_⟩; unfold State.noResetFor; decide

theorem witness_BusyCommandEnds_d :
    (working (.busy .stop .d (allPins false)) .s4 (allPins true) allOk).seq = .busy .stop .d (allPins false) ∧
      (working (.busy .stop .d (allPins false)) .s4 (allPins true) allOk).noResetFor 4 := by
  refine ⟨rfl, ?_⟩; unfold State.noResetFor; decide

theorem witness_IntermediateCombinations :
    (working (.busy .step .a (pattern .s4)) .s4 (allPins false) allOk).seq = .busy .step .a (pattern .s4) ∧
      (working (.busy .step .a (pattern .s4)) .s4 (allPins false) allOk).noResetFor 4 ∧
      (working (.busy .step .a (pattern .s4)) .s4 (allPins false) allOk).writesSucceed (pattern .s4) := by
  refine ⟨rfl, by unfold State.noResetFor; decide, ?_⟩; intro i; cases i <;> rfl

theorem witness_PinWriteGrainAgreesWithWholeCommand :
    (perWrite (offered 0b00#2)).seq = .idle ∧ (perWrite (offered 0b00#2)).env.grain = .pinWrite ∧
      (perWrite (offered 0b00#2)).edge.cmdValid = true ∧ (perWrite (offered 0b00#2)).noResetFor 5 := by
  refine ⟨rfl, rfl, rfl, by unfold State.noResetFor; decide⟩

theorem witness_SeqSoundKept :
    (working (.busy .step .b (pattern .s4)) .s4 (allPins false) allOk).seqSound ∧
      ∃ t, step (working (.busy .step .b (pattern .s4)) .s4 (allPins false) allOk) = .next t := by
  refine ⟨⟨?_, rfl, by decide⟩, _, rfl⟩
  intro j; cases j <;> decide

theorem witness_PadsFollowHistoryKept :
    (State.reset.recordWrite .b true .ok).padsFollowHistory ∧
      ∃ t, step (driven [edgeOffer 0b01#2] (State.reset.recordWrite .b true .ok)) = .next t := by
  refine ⟨?_, _, rfl⟩
  intro i; cases i
  · rfl
  · intro _; rfl
  · rfl
  · rfl

theorem witness_OnlyLowsAtZeroKept :
    (working (.busy .stop .c (allPins false)) .s0 (allPins false) allOk).seqSound ∧
      (working (.busy .stop .c (allPins false)) .s0 (allPins false) allOk).onlyLowsAtZero ∧
      ∃ t, step (working (.busy .stop .c (allPins false)) .s0 (allPins false) allOk) = .next t := by
  refine ⟨⟨?_, rfl⟩, ?_, _, rfl⟩
  · intro j; cases j <;> decide
  · intro _ e he; exact absurd he (List.not_mem_nil)

/-- A STOP and then a STEP that fails at pin A, from the state after reset: after one step no STEP has been accepted,
after two one has, and both runs meet the hypotheses. -/
def stopThenFailingStep : State :=
  driven [edgeOffer 0b01#2, edgeOffer 0b00#2] (ready .s0 .forward (allPins false) (allOk ++ failAfter 0))

theorem witness_StateZeroIffNoStepSinceReset :
    stopThenFailingStep.motorState = .s0 ∧ stopThenFailingStep.noResetFor 2 ∧
      ¬ stopThenFailingStep.acceptsWordWithin 0b00#2 1 ∧ stopThenFailingStep.acceptsWordWithin 0b00#2 2 ∧
      (∃ t, Sys2Proof.core.run 1 stopThenFailingStep = .next t ∧ t.motorState = .s0) ∧
      ∃ t, Sys2Proof.core.run 2 stopThenFailingStep = .next t ∧ t.motorState = .s1 := by
  refine ⟨rfl, by unfold State.noResetFor; decide, ?_, .inr ⟨_, rfl, .inl ⟨rfl, rfl⟩⟩, ⟨_, rfl, rfl⟩, _, rfl, rfl⟩
  rintro (h | ⟨_, _, h⟩)
  · exact absurd h.2 (by decide)
  · exact h

theorem witness_ReasonsAreOnlyCarried : 4 ≤ (ready .s1 .forward (allPins false) (failAfter 3)).env.pads.length := by
  decide

end Sys2Proof.Tests
end

section
/-!
SUPPORT. The words of the two formats (30_encoding.md): the operand codes undo each other, each field of a word selects
what R47 and R49 say, and from these the statements on host command words and pin-write request words.
-/

namespace Sys2Proof

/-- The direction a bit stands for has that bit (R13, R48). -/
@[simp] theorem Direction.bit_ofBit (x : Bool) : (Direction.ofBit x).bit = x := by
  cases x <;> rfl

/-- The pin at an address has that address: all four addresses are implemented (R31). -/
@[simp] theorem Pin.addr_ofAddr (sel : BitVec 2) : (Pin.ofAddr sel).addr = sel := by
  unfold Pin.ofAddr
  split
  · next h => exact h.symm
  split
  · next h => exact h.symm
  split
  · next h => exact h.symm
  · next h0 h1 h2 =>
    have h3 : sel = 3#2 := by bv_omega
    exact h3.symm

/-- `cls` = 0: the word is STEP or STOP, as `sub` says (R47). -/
theorem decode_cmd_of_cls_false {w : CmdWord} (h : w.getLsbD 1 = false) :
    decode (.cmd w) = if w.getLsbD 0 then .stop else .step := by
  simp only [decode, decodeCmd, h, Bool.false_eq_true, if_false]

/-- `cls` = 1: the word is SET_DIRECTION, and `sub` is its operand (R47, R48). -/
theorem decode_cmd_of_cls_true {w : CmdWord} (h : w.getLsbD 1 = true) :
    decode (.cmd w) = .setDirection (Direction.ofBit (w.getLsbD 0)) := by
  simp only [decode, decodeCmd, h, if_true]

/-- `lvl` selects the request and `sel` its pin (R49). -/
theorem decode_pinw (w : PinwWord) :
    decode (.pinw w) = if w.getLsbD 0 then .pinSetHigh (Pin.ofAddr (w.extractLsb' 1 2))
      else .pinSetLow (Pin.ofAddr (w.extractLsb' 1 2)) := rfl

end Sys2Proof

namespace Sys2Proof.Machine

/-- Settles O1: a case for each value of `cls`, and each row of the table is the case of its own bits. -/
theorem cmdWordsDecode : Obligations.CmdWordsDecode := by
  refine ⟨fun _ => decode_cmd_of_cls_false, fun w h => ?_, ?step, ?stop, ?forward, ?reverse⟩
  · exact ⟨Direction.ofBit (w.getLsbD 0), decode_cmd_of_cls_true h, Direction.bit_ofBit _⟩
  case step => exact decode_cmd_of_cls_false rfl
  case stop => exact decode_cmd_of_cls_false rfl
  case forward => exact decode_cmd_of_cls_true rfl
  case reverse => exact decode_cmd_of_cls_true rfl

/-- Settles O2: the pin of a word is the one at its address, and each row of the table is the word of one pin and one
level, which decodes to its request by `decode_pinwWord`. -/
theorem pinwWordsDecode : Obligations.PinwWordsDecode := by
  refine ⟨fun w => ⟨Pin.ofAddr (w.extractLsb' 1 2), Pin.addr_ofAddr _, decode_pinw w⟩, ?_⟩
  exact ⟨decode_pinwWord .a false, decode_pinwWord .a true, decode_pinwWord .b false, decode_pinwWord .b true,
    decode_pinwWord .c false, decode_pinwWord .c true, decode_pinwWord .d false, decode_pinwWord .d true,
    decode_pinwWord⟩

end Sys2Proof.Machine
end

section
/-!
SUPPORT. The cycle of the MotorStates (40_state_table.md): on 1..8 `successor` adds 1 and `predecessor` adds 7 to the
label around the ring of eight, so their iterates add multiples of these. That each is a single 8-cycle is read off from
this.
-/

namespace Sys2Proof

/-- The labels tell the MotorStates apart (R11). -/
theorem MotorState.label_injective : Function.Injective MotorState.label := by
  intro m n
  cases m <;> cases n <;> decide

/-- The label of a state of the cycle is 1 to 8 (R11). -/
theorem MotorState.label_mem_cycle {m : MotorState} (h : m ≠ .s0) : 1 ≤ m.label ∧ m.label ≤ 8 := by
  cases m
  case s0 => exact absurd rfl h
  all_goals decide

/-- A state with a positive label is one of the cycle. -/
theorem MotorState.ne_s0_of_label_pos {m : MotorState} (h : 0 < m.label) : m ≠ .s0 := by
  rintro rfl
  exact absurd h (by decide)

end Sys2Proof

namespace Sys2Proof.Machine

/-- On the states 1..8 the map turns the ring of eight by `c` places. -/
def TurnsRingBy (c : Nat) (f : MotorState → MotorState) : Prop :=
  ∀ m, m ≠ .s0 → (f m).label = (m.label - 1 + c) % 8 + 1

/-- R66: forward is one place. -/
theorem successor_turnsRingBy : TurnsRingBy 1 successor := by
  intro m h
  cases m
  case s0 => exact absurd rfl h
  all_goals rfl

/-- R67: reverse is seven places, that is, one place back. -/
theorem predecessor_turnsRingBy : TurnsRingBy 7 predecessor := by
  intro m h
  cases m
  case s0 => exact absurd rfl h
  all_goals rfl

/-- Turning `k` times by `c` places is turning by `c * k` places; no turn leaves the ring. -/
theorem TurnsRingBy.iterate {c : Nat} {f : MotorState → MotorState} (hf : TurnsRingBy c f) (k : Nat) :
    TurnsRingBy (c * k) f^[k] := by
  intro m hm
  induction k with
  | zero =>
    have := MotorState.label_mem_cycle hm
    simp only [Function.iterate_zero, id_eq]
    omega
  | succ k ih =>
    have hk : f^[k] m ≠ .s0 := MotorState.ne_s0_of_label_pos (by omega)
    rw [Function.iterate_succ_apply', hf _ hk, ih, Nat.mul_succ]
    omega

/-- R69: eight applications return to a state of 1..8, and within eight each state of 1..8 is reached exactly once. -/
def IsSingleEightCycle (f : MotorState → MotorState) : Prop :=
  ∀ m, m ≠ .s0 → f^[8] m = m ∧
    ∀ n, n ≠ .s0 → ∃ k, (k < 8 ∧ f^[k] m = n) ∧ ∀ k', k' < 8 → f^[k'] m = n → k' = k

/-- Turning by 1 or by 7 places is a single 8-cycle. Both undo themselves modulo 8 as factors, so the number of turns
from `m` to `n` is the distance `n - m` around the ring, times `c`. -/
theorem TurnsRingBy.isSingleEightCycle {c : Nat} {f : MotorState → MotorState} (hf : TurnsRingBy c f)
    (hc : c = 1 ∨ c = 7) : IsSingleEightCycle f := by
  intro m hm
  have hmLabel := MotorState.label_mem_cycle hm
  refine ⟨MotorState.label_injective ?_, fun n hn => ?_⟩
  · rw [hf.iterate 8 m hm]
    omega
  · have hnLabel := MotorState.label_mem_cycle hn
    have reaches_iff (k : Nat) : f^[k] m = n ↔ (m.label - 1 + c * k) % 8 + 1 = n.label := by
      rw [← hf.iterate k m hm, MotorState.label_injective.eq_iff]
    simp only [reaches_iff]
    refine ⟨c * (n.label + 8 - m.label) % 8, ⟨Nat.mod_lt _ (by decide), ?reached⟩, fun k' hk' hreach => ?once⟩
    case reached => obtain rfl | rfl := hc <;> omega
    case once => obtain rfl | rfl := hc <;> omega

/-- Settles O11: forward turns the ring by one place, reverse by seven, and each such turn is a single 8-cycle. -/
theorem singleEightCycle : Obligations.SingleEightCycle :=
  ⟨successor_turnsRingBy.isSingleEightCycle (.inl rfl), predecessor_turnsRingBy.isSingleEightCycle (.inr rfl)⟩

end Sys2Proof.Machine
end

section
/-!
SUPPORT. The end of a command that commits (R80, R81, R83): whatever the platform answers, STATE and DIR are as the commit
found them, and an OK means that the pins show what was committed. From this, that a STEP after a STOP resumes (R86).
-/

namespace Sys2Proof.Machine

/-- Either no write of a commit fails, or one of them is the first to fail (R80, R104). -/
theorem State.writesSucceed_or_failsFirstAt (s : State) (t : Pins) :
    s.writesSucceed t ∨ ∃ i reason level, s.failsFirstAt t i reason level := by
  by_cases hall : s.writesSucceed t
  · exact .inl hall
  · obtain ⟨i, hi, hfirst⟩ :=
      (measure pinIndex).wf.has_min {i | s.commitAnswer t i ≠ .ok} (not_forall.mp hall)
    cases hx : s.commitAnswer t i with
    | ok => exact absurd hx hi
    | fail reason level =>
      exact .inr ⟨i, reason, level, fun j hj => not_not.mp fun hne => hfirst j hne hj, hx⟩

/-- The two ends of a command that commits: OK after four successful writes, PinWriteError at the first failed one
(R80, R114). -/
theorem State.conclude_commit_cases (s : State) (t : Pins) :
    State.conclude (s.commit t) = (s.afterWrites t 4).respond .ok ∨
    ∃ i reason level, State.conclude (s.commit t) =
      ((s.afterWrites t (pinIndex i)).recordWrite i (readPin t i) (.fail reason level)).raisePinWriteError reason := by
  obtain hall | ⟨i, reason, level, hfirst⟩ := s.writesSucceed_or_failsFirstAt t
  · left
    rw [State.commit_of_writesSucceed hall, State.conclude_none]
  · right
    exact ⟨i, reason, level, by rw [State.commit_of_failsFirstAt hfirst, State.conclude_some]⟩

@[simp] theorem State.conclude_commit_motorState (s : State) (t : Pins) :
    (State.conclude (s.commit t)).motorState = s.motorState := by
  obtain h | ⟨_, _, _, h⟩ := s.conclude_commit_cases t <;> rw [h] <;> rfl

@[simp] theorem State.conclude_commit_dir (s : State) (t : Pins) :
    (State.conclude (s.commit t)).dir = s.dir := by
  obtain h | ⟨_, _, _, h⟩ := s.conclude_commit_cases t <;> rw [h] <;> rfl

/-- A command that answers OK has left its tuple on the pins, whatever they held before (R80). -/
theorem State.conclude_commit_pin_of_ok {s : State} {t : Pins}
    (hok : (State.conclude (s.commit t)).rsp = some .ok) : (State.conclude (s.commit t)).pin = t := by
  obtain h | ⟨_, _, _, h⟩ := s.conclude_commit_cases t <;> rw [h] at hok ⊢
  · exact s.afterWrites_four_pin t
  · simp at hok

/-- Settles O24: the STOP keeps STATE and DIR, so both STEPs advance to the same state and commit the same pattern, and
an OK of either shows that pattern. -/
theorem stopThenStepResumes : Obligations.StopThenStepResumes := by
  intro s
  refine ⟨_, _, _, exec_stop s, exec_step _, exec_step s, ?_⟩
  set u := State.conclude (s.commit (allPins false))
  have hstate : u.motorState = s.motorState := s.conclude_commit_motorState _
  have hdir : u.dir = s.dir := s.conclude_commit_dir _
  have hnext : u.advance.motorState = s.advance.motorState := by simp [hstate, hdir]
  rw [hnext]
  refine ⟨hstate, hdir, State.conclude_commit_pin_of_ok, ?_, ?_, ?_, State.conclude_commit_pin_of_ok, ?_⟩
  · simp [hstate, hdir]
  · simp [hstate, hdir]
  · simp [hdir]
  · intro hv hw
    exact (State.conclude_commit_pin_of_ok hv).trans (State.conclude_commit_pin_of_ok hw).symm

end Sys2Proof.Machine
end

section
/-!
SUPPORT. The ports that say whether the block takes a command, gives a response or requests a write (R45): a port of an idle
block and a port at an edge with `rst` = 1. From this, that reset wins over everything else at its edge (R131, R133).
-/

namespace Sys2Proof.Machine

/-- At an edge with `rst` = 1 the block is not ready, idle or busy (R45). -/
theorem cmdReady_of_rst {s : State} (hr : s.edge.rst = true) : cmdReady s = false := by
  simp [cmdReady, hr]

/-- An idle block is ready unless the host drives reset (R45). -/
theorem cmdReady_of_idle {s : State} (hq : s.seq = .idle) : cmdReady s = !s.edge.rst := by
  simp [cmdReady, hq]

/-- No command is accepted by a block that is not ready, offered or not (R46). -/
theorem accepts_of_not_ready {s : State} (h : cmdReady s = false) : accepts s = false := by
  simp [accepts, h]

/-- An idle block requests no pin write. -/
theorem pwO_of_idle {s : State} (hq : s.seq = .idle) : pwO s = none := by
  simp only [pwO, hq]

/-- Without a response recorded for the edge, `rsp_valid` is 0. -/
theorem rspValidO_of_rsp_none {s : State} (h : s.rsp = none) : rspValidO s = false := by
  simp only [rspValidO, h, Option.isSome_none]

/-- Settles O34: at an edge with `rst` = 1 the block is not ready, and the step is the reset event whatever SEQ holds.
That event leaves SEQ idle and no response, from which the ports after it follow. -/
theorem resetWins : Obligations.ResetWins := by
  intro s hr
  have hnotReady : cmdReady s = false := cmdReady_of_rst hr
  have hidle : s.atEdge.resetEvent.seq = .idle := s.atEdge.resetEvent_seq
  have hpins : s.atEdge.resetEvent.pin = s.env.pinReset := by simp
  exact ⟨hnotReady, accepts_of_not_ready hnotReady, s.atEdge.resetEvent, step_of_rst hr,
    s.atEdge.resetEvent_motorState, s.atEdge.resetEvent_dir, hidle, hpins, s.atEdge.resetEvent_history,
    rspValidO_of_rsp_none s.atEdge.resetEvent_rsp, pwO_of_idle hidle, cmdReady_of_idle hidle⟩

end Sys2Proof.Machine
end

section
/-!
SUPPORT. Encoding against decoding (30_encoding.md): a word of either format is put together from the fields the decoder
reads, a number is read as the word it is or refused by its size, and the codes and texts of states and instructions
read back.
-/

namespace Sys2Proof

/-- A host command word is `cls` and then `sub` (R47). -/
theorem cmdWord_fields (w : CmdWord) : BitVec.ofBool (w.getLsbD 1) ++ BitVec.ofBool (w.getLsbD 0) = w := by
  revert w
  decide

/-- A pin-write request word is the address of its pin and then the level (R49). -/
theorem pinwWord_fields (w : PinwWord) : pinwWord (Pin.ofAddr (w.extractLsb' 1 2)) (w.getLsbD 0) = w := by
  unfold pinwWord
  rw [Pin.addr_ofAddr]
  revert w
  decide

/-- The instruction of a word is encoded as that word: the encoder writes the fields the decoder read. -/
theorem encode_decodeCmd (w : CmdWord) : encode (decodeCmd w) = .cmd w := by
  have hfields := cmdWord_fields w
  unfold decodeCmd
  split
  · next hcls =>
    rw [hcls] at hfields
    rw [encode, Direction.bit_ofBit]
    exact congrArg FetchWord.cmd hfields
  · next hcls =>
    rw [Bool.eq_false_of_not_eq_true hcls] at hfields
    split
    · next hsub => rw [hsub] at hfields; exact congrArg FetchWord.cmd hfields
    · next hsub => rw [Bool.eq_false_of_not_eq_true hsub] at hfields; exact congrArg FetchWord.cmd hfields

theorem encode_decodePinw (w : PinwWord) : encode (decodePinw w) = .pinw w := by
  have hfields := pinwWord_fields w
  unfold decodePinw
  split
  · next hlvl => rw [hlvl] at hfields; exact congrArg FetchWord.pinw hfields
  · next hlvl => rw [Bool.eq_false_of_not_eq_true hlvl] at hfields; exact congrArg FetchWord.pinw hfields

/-- Every number a CMD word holds is read as that word, and only those are (R47, R53). -/
@[simp] theorem readWord_cmd_toNat (w : CmdWord) : readWord .cmd w.toNat = .ok (.cmd w) := by
  simp [readWord, w.isLt]

@[simp] theorem readWord_pinw_toNat (w : PinwWord) : readWord .pinw w.toNat = .ok (.pinw w) := by
  simp [readWord, w.isLt]

theorem readWord_cmd_tooWide {n : Nat} (h : 4 ≤ n) : readWord .cmd n = .error .cmdWordTooWide :=
  if_neg (Nat.not_lt.mpr h)

theorem readWord_pinw_tooWide {n : Nat} (h : 8 ≤ n) : readWord .pinw n = .error .pinwWordTooWide :=
  if_neg (Nat.not_lt.mpr h)

/-- A width of two or three bits tells the interface (log entry 9). -/
theorem tableWord_two (n : Nat) : tableWord 2 n = (readWord .cmd n).toOption := rfl
theorem tableWord_three (n : Nat) : tableWord 3 n = (readWord .pinw n).toOption := rfl

@[simp] theorem tableWord_two_toNat (w : CmdWord) : tableWord 2 w.toNat = some (.cmd w) := by
  rw [tableWord_two, readWord_cmd_toNat]; rfl

@[simp] theorem tableWord_three_toNat (w : PinwWord) : tableWord 3 w.toNat = some (.pinw w) := by
  rw [tableWord_three, readWord_pinw_toNat]; rfl

/-- The code of a MotorState is its label: 4 bits hold it (R11). -/
theorem MotorState.toNat_code (m : MotorState) : m.code.toNat = m.label := by
  cases m <;> rfl

theorem MotorState.ofCode?_code (m : MotorState) : MotorState.ofCode? m.code = some m := by
  cases m <;> rfl

/-- The codes that name no MotorState are those past the nine labels (R12). -/
theorem MotorState.ofCode?_eq_none_iff (w : BitVec 4) : MotorState.ofCode? w = none ↔ 9 ≤ w.toNat := by
  revert w
  decide

end Sys2Proof

namespace Sys2Proof.Machine

/-- Settles O3: an instruction decodes from its word by the tables, request words by `decode_pinwWord`; a word is
encoded from its own fields; and the format of the word is that of the instruction's constructor. -/
theorem decodeAndEncodeAgree : Obligations.DecodeAndEncodeAgree := by
  refine ⟨fun i => ?decoded, fun f => ?encoded, fun i => ?cmd, fun i => ?pinw⟩
  case decoded =>
    cases i with
    | step => rfl
    | stop => rfl
    | setDirection d => cases d <;> rfl
    | pinSetLow sel => exact decode_pinwWord sel false
    | pinSetHigh sel => exact decode_pinwWord sel true
  case encoded =>
    cases f with
    | cmd w => exact encode_decodeCmd w
    | pinw w => exact encode_decodePinw w
  case cmd => cases i <;> simp [encode, Instr.wellFormedOn, Instr.iface]
  case pinw => cases i <;> simp [encode, Instr.wellFormedOn, Instr.iface]

/-- Settles O4: a number of the width is read as its word, a wider one fails the bound `readWord` checks. -/
theorem tableWordsDecode : Obligations.TableWordsDecode := by
  refine ⟨fun w => ?_, fun w => ?_, fun n hn => ⟨?_, ?_⟩, fun n hn => ⟨?_, ?_⟩⟩
  · rw [decodeTableWord, tableWord_two_toNat]; rfl
  · rw [decodeTableWord, tableWord_three_toNat]; rfl
  · rw [decodeOn, readWord_cmd_tooWide hn]; rfl
  · rw [decodeTableWord, tableWord_two, readWord_cmd_tooWide hn]; rfl
  · rw [decodeOn, readWord_pinw_tooWide hn]; rfl
  · rw [decodeTableWord, tableWord_three, readWord_pinw_tooWide hn]; rfl

/-- Settles O5, from the label of each state and the nine codes that name one. -/
theorem stateCodes : Obligations.StateCodes :=
  ⟨fun m => ⟨m.toNat_code, m.ofCode?_code⟩, MotorState.ofCode?_eq_none_iff⟩

/-- The text of each instruction is that of no instruction listed before it, so it reads back (R54). -/
theorem instrOfText?_textOf (i : Instr) : instrOfText? (textOf i) = some i := by
  cases i with
  | step => decide
  | stop => decide
  | setDirection d => cases d <;> decide
  | pinSetLow sel => cases sel <;> decide
  | pinSetHigh sel => cases sel <;> decide

/-- `step n` is `step` written `n` times (R55). -/
theorem expandListing_steps (n : Nat) : expandListing [.steps n] = expandListing (List.replicate n .step) := by
  simp [expandListing, expandLine]

/-- Settles O6: the texts and the host's edges are the definitions' own rows; reading back and `step n` are the two
lemmas above. -/
theorem listingNotation : Obligations.ListingNotation :=
  ⟨rfl, rfl, rfl, rfl, rfl, rfl, rfl, rfl, rfl, rfl, rfl, rfl, instrOfText?_textOf, rfl, rfl, expandListing_steps,
    rfl, rfl, rfl, rfl, _, rfl, rfl⟩

end Sys2Proof.Machine
end

section
/-!
SUPPORT. The State Table (40_state_table.md): `successor` and `predecessor` undo each other on the cycle and never
answer the sentinel, and their iterates in closed form; which pin of `pattern` changes between neighbours and which are
high.
-/

namespace Sys2Proof.Machine

/-- R66, R67: no next state is the sentinel. -/
theorem successor_ne_s0 (m : MotorState) : successor m ≠ .s0 := by cases m <;> decide
theorem predecessor_ne_s0 (m : MotorState) : predecessor m ≠ .s0 := by cases m <;> decide

theorem nextState_ne_s0 (d : Direction) (m : MotorState) : nextState d m ≠ .s0 := by
  cases d
  · exact successor_ne_s0 m
  · exact predecessor_ne_s0 m

/-- R68: backwards and forwards again is the identity on 1..8, and the other way round; not at the sentinel, which no
map answers. -/
theorem predecessor_successor_eq_iff (m : MotorState) : predecessor (successor m) = m ↔ m ≠ .s0 := by
  cases m <;> decide

theorem successor_predecessor_eq_iff (m : MotorState) : successor (predecessor m) = m ↔ m ≠ .s0 := by
  cases m <;> decide

/-- A step and a step in the other direction return from the states of the cycle and from no other (R87). -/
theorem nextState_opposite_eq_iff {d d' : Direction} (h : d' ≠ d) (m : MotorState) :
    nextState d' (nextState d m) = m ↔ m ≠ .s0 := by
  cases d <;> cases d'
  case forward.reverse => exact predecessor_successor_eq_iff m
  case reverse.forward => exact successor_predecessor_eq_iff m
  all_goals exact absurd rfl h

/-- On 1..8 each state has exactly one preimage there. -/
def IsBijectionOnCycle (f : MotorState → MotorState) : Prop :=
  ∀ m, m ≠ .s0 → ∃ n, (n ≠ .s0 ∧ f n = m) ∧ ∀ n', n' ≠ .s0 → f n' = m → n' = n

/-- A map into the cycle with an inverse there is a bijection on it. -/
theorem isBijectionOnCycle_of_inverse {f g : MotorState → MotorState} (hg : ∀ m, g m ≠ .s0)
    (hfg : ∀ m, f (g m) = m ↔ m ≠ .s0) (hgf : ∀ m, g (f m) = m ↔ m ≠ .s0) : IsBijectionOnCycle f := by
  intro m hm
  refine ⟨g m, ⟨hg m, (hfg m).mpr hm⟩, ?_⟩
  rintro n' hn' rfl
  exact ((hgf n').mpr hn').symm

/-- Settles O8: the rows and formulas state by state; the bijection from the inverse. -/
theorem successorTable : Obligations.SuccessorTable := by
  refine ⟨rfl, fun m => ?_, fun m => ?_, successor_ne_s0, rfl, ?_⟩
  · cases m <;> rfl
  · cases m <;> rfl
  · exact isBijectionOnCycle_of_inverse predecessor_ne_s0 successor_predecessor_eq_iff predecessor_successor_eq_iff

/-- Settles O9: the rows and the formula by cases state by state; the other formula is the turn of the ring by seven.
-/
theorem predecessorTable : Obligations.PredecessorTable := by
  refine ⟨rfl, fun m => ?_, fun m hm => ?_, predecessor_ne_s0, rfl, ?_⟩
  · cases m <;> rfl
  · have hlabel := MotorState.label_mem_cycle hm
    rw [predecessor_turnsRingBy m hm]
    omega
  · exact isBijectionOnCycle_of_inverse successor_ne_s0 predecessor_successor_eq_iff successor_predecessor_eq_iff

/-- Settles O10, from the two round trips; the chains from the sentinel are rows of the tables. -/
theorem inverseCycle : Obligations.InverseCycle :=
  ⟨fun m hm => ⟨(predecessor_successor_eq_iff m).mpr hm, (successor_predecessor_eq_iff m).mpr hm⟩, rfl, rfl, rfl, rfl,
    fun m => (predecessor_successor_eq_iff m).mp⟩

/-- Settles O12: from 1..8 the ring turns by `n` or by `7 * n` places; from the sentinel the first application enters
the ring at 1 or at 8 and the others turn it. -/
theorem iterationFormulas : Obligations.IterationFormulas := by
  have fwd (n m) (hm : m ≠ .s0) := successor_turnsRingBy.iterate n m hm
  have rev (n m) (hm : m ≠ .s0) := predecessor_turnsRingBy.iterate n m hm
  refine ⟨fun m n hm => ?_, fun m n hm => ?_, fun n hn => ?_, fun n hn => ?_, rfl, rfl, rfl⟩
  · rw [fwd n m hm, Nat.one_mul]
  · have hlabel := MotorState.label_mem_cycle hm
    rw [rev n m hm]
    omega
  · obtain ⟨k, rfl⟩ := Nat.exists_eq_add_of_le' hn
    rw [Function.iterate_succ_apply, fwd k _ (successor_ne_s0 _)]
    simp [successor, MotorState.label]
  · obtain ⟨k, rfl⟩ := Nat.exists_eq_add_of_le' hn
    rw [Function.iterate_succ_apply, rev k _ (predecessor_ne_s0 _)]
    simp only [predecessor, MotorState.label]
    omega

/-- R65, R143: only the sentinel's pattern is all low. -/
theorem pattern_eq_low_iff (m : MotorState) : pattern m = allPins false ↔ m = .s0 := by
  cases m <;> decide

/-- Settles O7: the rows and the per-pin form row by row; no STEP commits the all-low pattern, because no next state
is the sentinel. -/
theorem patternTable : Obligations.PatternTable := by
  refine ⟨rfl, rfl, rfl, rfl, rfl, rfl, rfl, rfl, rfl, fun m => ?a, fun m => ?b, fun m => ?c, fun m => ?d, rfl,
    pattern_eq_low_iff, fun d m h => nextState_ne_s0 d m ((pattern_eq_low_iff _).mp h)⟩
  all_goals cases m <;> decide

/-- The pin in which the patterns of a state and of its successor differ (R72). -/
def changingPin : MotorState → Pin
  | .s0 => .d
  | .s1 => .c
  | .s2 => .d
  | .s3 => .b
  | .s4 => .c
  | .s5 => .a
  | .s6 => .b
  | .s7 => .d
  | .s8 => .a

theorem pattern_differs_from_successor_iff (m : MotorState) (j : Pin) :
    readPin (pattern m) j ≠ readPin (pattern (successor m)) j ↔ j = changingPin m := by
  cases m <;> cases j <;> decide

/-- The first high pin of a state of the cycle, in the order of the ring A, B, C, D, A (R72); the sentinel has none
and gets pin D. -/
def firstHighPin : MotorState → Pin
  | .s0 => .d
  | .s1 => .d
  | .s2 => .c
  | .s3 => .c
  | .s4 => .b
  | .s5 => .b
  | .s6 => .a
  | .s7 => .a
  | .s8 => .d

theorem pattern_high_iff_of_odd {m : MotorState} (h : m.label % 2 = 1) (j : Pin) :
    readPin (pattern m) j = true ↔ j = firstHighPin m := by
  revert h
  cases m <;> cases j <;> decide

theorem pattern_high_iff_of_even {m : MotorState} (hm : m ≠ .s0) (h : m.label % 2 = 0) (j : Pin) :
    readPin (pattern m) j = true ↔ j = firstHighPin m ∨ j = (pinAfter (firstHighPin m)).getD .a := by
  revert hm h
  cases m <;> cases j <;> decide

/-- R72: the patterns tell the states apart. -/
theorem pattern_injective {m n : MotorState} (h : pattern m = pattern n) : m = n := by
  revert h
  cases m <;> cases n <;> decide

/-- Settles O13: the pin that changes is `changingPin`, the high ones are `firstHighPin` and, in an even state, its
neighbour. -/
theorem patternNeighbours : Obligations.PatternNeighbours := by
  refine ⟨fun m _ => ⟨changingPin m, pattern_differs_from_successor_iff m⟩,
    fun m h => ⟨firstHighPin m, pattern_high_iff_of_odd h⟩,
    fun m hm h => ⟨firstHighPin m, pattern_high_iff_of_even hm h⟩,
    fun _ _ => pattern_injective, pattern_differs_from_successor_iff .s0, fun i => ?_⟩
  cases i <;> decide

end Sys2Proof.Machine
end

section
/-!
SUPPORT. A command that commits, as a whole (R80, R81, R83): the exact state it ends in when no write fails and when the
first failing write is the one to pin `i`. The statements about STEP and STOP are read off from these two.
-/

namespace Sys2Proof.Machine

/-- The pins a commit of `t` leaves whose first failing write is the one to pin `i` and leaves it at `level` (R80,
R105). -/
def State.pinsAfterFailure (s : State) (t : Pins) (i : Pin) (level : Level) : Pins :=
  writePin (s.afterWrites t (pinIndex i)).pin i level

@[simp] theorem State.readPin_pinsAfterFailure_same (s : State) (t : Pins) (i : Pin) (level : Level) :
    readPin (s.pinsAfterFailure t i level) i = level :=
  readPin_writePin_same _ i level

theorem State.readPin_pinsAfterFailure_before (s : State) (t : Pins) {i j : Pin} (level : Level)
    (h : pinIndex j < pinIndex i) : readPin (s.pinsAfterFailure t i level) j = readPin t j := by
  have hne : j ≠ i := by rintro rfl; exact absurd h (Nat.lt_irrefl _)
  rw [State.pinsAfterFailure, readPin_writePin_other hne, s.readPin_afterWrites t (pinIndex_lt_four i).le, if_pos h]

theorem State.readPin_pinsAfterFailure_after (s : State) (t : Pins) {i j : Pin} (level : Level)
    (h : pinIndex i < pinIndex j) : readPin (s.pinsAfterFailure t i level) j = readPin s.pin j := by
  have hne : j ≠ i := by rintro rfl; exact absurd h (Nat.lt_irrefl _)
  rw [State.pinsAfterFailure, readPin_writePin_other hne, s.readPin_afterWrites t (pinIndex_lt_four i).le,
    if_neg h.not_gt]

/-- The end of a command none of whose writes fails. -/
theorem State.conclude_commit_of_writesSucceed {s : State} {t : Pins} (h : s.writesSucceed t) :
    State.conclude (s.commit t) =
      { s with
        pin := t
        seq := .idle
        history := s.history ++ okEvents t 4
        rsp := some .ok
        responses := s.responses ++ [.ok]
        pwRsp := some .ok
        env := s.env.afterRequests 4 } := by
  rw [State.commit_of_writesSucceed h, State.conclude_none, ← s.afterWrites_four_pin t]
  rfl

/-- The end of a command whose first failing write is the one to pin `i`. -/
theorem State.conclude_commit_of_failsFirstAt {s : State} {t : Pins} {i : Pin} {reason : Reason} {level : Level}
    (h : s.failsFirstAt t i reason level) :
    State.conclude (s.commit t) =
      { s with
        pin := s.pinsAfterFailure t i level
        seq := .idle
        history := s.history ++ okEvents t (pinIndex i)
          ++ [{ pin := i, level := readPin t i, outcome := .fail reason }]
        rsp := some (.pinWriteError reason)
        responses := s.responses ++ [.pinWriteError reason]
        pwRsp := some (.fail reason)
        env := s.env.afterRequests (pinIndex i + 1) } := by
  rw [State.commit_of_failsFirstAt h, State.conclude_some, ← Env.afterRequests_add]
  rfl

/-- Settles O14: STEP is the commit of the advanced state's pattern. -/
theorem stepWhenNoWriteFails : Obligations.StepWhenNoWriteFails := by
  intro s m h
  have hadvanced : s.advance.writesSucceed (pattern s.advance.motorState) := h
  rw [exec_step, State.conclude_commit_of_writesSucceed hadvanced]
  rfl

/-- Settles O15: the pins are those a commit leaves that fails first at pin `i`. -/
theorem stepWhenAWriteFails : Obligations.StepWhenAWriteFails := by
  intro s i reason level m h
  have hadvanced : s.advance.failsFirstAt (pattern s.advance.motorState) i reason level := h
  refine ⟨s.pinsAfterFailure (pattern m) i level, fun j => s.readPin_pinsAfterFailure_before _ level,
    s.readPin_pinsAfterFailure_same _ i level, fun j => s.readPin_pinsAfterFailure_after _ level, ?_⟩
  rw [exec_step, State.conclude_commit_of_failsFirstAt hadvanced]
  rfl

/-- Settles O16: STOP is the commit of four lows. -/
theorem stopWhenNoWriteFails : Obligations.StopWhenNoWriteFails := by
  intro s h
  rw [exec_stop, State.conclude_commit_of_writesSucceed h]

/-- Settles O17, as O15 with the tuple of four lows. -/
theorem stopWhenAWriteFails : Obligations.StopWhenAWriteFails := by
  intro s i reason level h
  refine ⟨s.pinsAfterFailure (allPins false) i level, fun j hj => ?_,
    s.readPin_pinsAfterFailure_same _ i level, fun j => s.readPin_pinsAfterFailure_after _ level, ?_⟩
  · rw [s.readPin_pinsAfterFailure_before _ level hj, readPin_allPins]
  · rw [exec_stop, State.conclude_commit_of_failsFirstAt h, readPin_allPins]

/-- The write that fails first is not one that succeeds. -/
theorem State.failsFirstAt.not_writesSucceed {s : State} {t : Pins} {i : Pin} {reason : Reason} {level : Level}
    (h : s.failsFirstAt t i reason level) : ¬ s.writesSucceed t := by
  obtain ⟨-, hfail⟩ := h
  intro hall
  rw [hall i] at hfail
  cases hfail

/-- Of two writes that both fail first neither comes before the other, so they are one. -/
theorem State.failsFirstAt.unique {s : State} {t : Pins} {i i' : Pin} {reason reason' : Reason} {level level' : Level}
    (h : s.failsFirstAt t i reason level) (h' : s.failsFirstAt t i' reason' level') :
    i' = i ∧ reason' = reason ∧ level' = level := by
  obtain ⟨hbefore, hfail⟩ := h
  obtain ⟨hbefore', hfail'⟩ := h'
  obtain hlt | heq | hgt := Nat.lt_trichotomy (pinIndex i) (pinIndex i')
  · rw [hbefore' i hlt] at hfail; cases hfail
  · obtain rfl := pinIndex_injective heq
    rw [hfail] at hfail'
    cases hfail'
    exact ⟨rfl, rfl, rfl⟩
  · rw [hbefore i' hgt] at hfail'; cases hfail'

/-- Settles O18: the commit's answer is known in each of the two cases, and the cases exclude each other. -/
theorem commitSucceedsOrFailsFirstOnce : Obligations.CommitSucceedsOrFailsFirstOnce := by
  intro s t
  obtain hall | ⟨i, reason, level, hfirst⟩ := s.writesSucceed_or_failsFirstAt t
  · have hnone (i reason level) : ¬ s.failsFirstAt t i reason level := fun h => h.not_writesSucceed hall
    rw [State.commit_of_writesSucceed hall]
    exact ⟨by simp [hall], by simp [hnone], .inl ⟨hall, hnone⟩⟩
  · have hnot := hfirst.not_writesSucceed
    rw [State.commit_of_failsFirstAt hfirst]
    refine ⟨by simp [hnot], fun reason' => ⟨?_, ?_⟩, .inr ⟨hnot, i, reason, level, hfirst, fun _ _ _ => hfirst.unique⟩⟩
    · rintro ⟨⟩
      exact ⟨i, level, hfirst⟩
    · rintro ⟨i', level', h'⟩
      obtain ⟨-, rfl, -⟩ := hfirst.unique h'
      rfl

/-- The command is over and has given one response, whatever the platform answered (R85). -/
theorem State.conclude_commit_responds (s : State) (t : Pins) :
    ∃ r, (State.conclude (s.commit t)).seq = .idle ∧ (State.conclude (s.commit t)).rsp = some r ∧
      (State.conclude (s.commit t)).responses = s.responses ++ [r] := by
  obtain h | ⟨_, reason, _, h⟩ := s.conclude_commit_cases t <;> rw [h]
  · exact ⟨.ok, rfl, rfl, rfl⟩
  · exact ⟨.pinWriteError reason, rfl, rfl, rfl⟩

@[simp] theorem State.conclude_commit_seq (s : State) (t : Pins) : (State.conclude (s.commit t)).seq = .idle := by
  obtain ⟨_, hidle, -, -⟩ := s.conclude_commit_responds t
  exact hidle

/-- Settles O19: both commands end as `conclude_commit_responds` says, STEP from the advanced state. -/
theorem stepAndStopAlwaysComplete : Obligations.StepAndStopAlwaysComplete := by
  intro s
  obtain ⟨r, hidle, hrsp, hresponses⟩ := s.advance.conclude_commit_responds (pattern s.advance.motorState)
  obtain ⟨r', hidle', hrsp', hresponses'⟩ := s.conclude_commit_responds (allPins false)
  exact ⟨⟨_, r, exec_step s, by simp, by simp, hidle, hrsp, hresponses⟩,
    ⟨_, r', exec_stop s, by simp, by simp, hidle', hrsp', hresponses'⟩⟩

/-- The events of a command that commits, with the response that goes with them (R40, R80, R113). -/
theorem State.conclude_commit_events (s : State) (t : Pins) :
    ((State.conclude (s.commit t)).history = s.history ++ okEvents t 4 ∧
      (State.conclude (s.commit t)).rsp = some .ok) ∨
    ∃ i reason, (State.conclude (s.commit t)).history = s.history ++ okEvents t (pinIndex i)
        ++ [{ pin := i, level := readPin t i, outcome := .fail reason }] ∧
      (State.conclude (s.commit t)).rsp = some (.pinWriteError reason) := by
  obtain hall | ⟨i, reason, level, hfirst⟩ := s.writesSucceed_or_failsFirstAt t
  · rw [State.conclude_commit_of_writesSucceed hall]
    exact .inl ⟨rfl, rfl⟩
  · rw [State.conclude_commit_of_failsFirstAt hfirst]
    exact .inr ⟨i, reason, rfl, rfl⟩

/-- Settles O23: STEP and STOP each commit their tuple, and advancing records no event. -/
theorem commitEventsInOrder : Obligations.CommitEventsInOrder := by
  rintro s u t (⟨hexec, rfl⟩ | ⟨hexec, rfl⟩)
  · cases hexec
    exact s.advance.conclude_commit_events _
  · cases hexec
    exact s.conclude_commit_events _

end Sys2Proof.Machine
end

section
/-!
SUPPORT. Commands one after the other, and what a command does not look at: the pins, and for STOP also STATE and DIR.
-/

namespace Sys2Proof.Machine

/-- Settles O25: the first STEP advances STATE and keeps DIR whatever became of its writes, so the second one advances
from there; its OK shows its pattern. -/
theorem failedStepIsNotRetried : Obligations.FailedStepIsNotRetried := by
  intro s
  refine ⟨_, _, exec_step s, exec_step _, by simp, fun hok => ?_⟩
  rw [State.conclude_commit_pin_of_ok hok]
  simp

/-- Settles O26: between the two STEPs only DIR has changed, and a step back undoes a step from 1..8 only. -/
theorem turnGoesBackOneState : Obligations.TurnGoesBackOneState := by
  intro s d hd
  refine ⟨_, _, _, exec_step s, exec_setDirection d _, exec_step _, rfl, rfl, ?_⟩
  simp [nextState_opposite_eq_iff hd]

/-- Two states in which the platform answers a commit alike: either no write fails in both, or the same one fails
first in both. -/
theorem State.succeed_or_fail_alike {s s' : State} {t : Pins} (h : ∀ i, s'.commitAnswer t i = s.commitAnswer t i) :
    (s.writesSucceed t ∧ s'.writesSucceed t) ∨
    ∃ i reason level, s.failsFirstAt t i reason level ∧ s'.failsFirstAt t i reason level := by
  obtain hall | ⟨i, reason, level, hfirst⟩ := s.writesSucceed_or_failsFirstAt t
  · exact .inl ⟨hall, fun i => (h i).trans (hall i)⟩
  · obtain ⟨hbefore, hfail⟩ := id hfirst
    exact .inr ⟨i, reason, level, hfirst, fun j hj => (h j).trans (hbefore j hj), (h i).trans hfail⟩

/-- A commit that starts from other pins ends in the same state but for the pins, and for them too if it ends with OK:
the platform's answers do not depend on them (R80). -/
theorem State.conclude_commit_of_other_pins (s : State) (p t : Pins) :
    (∃ q, State.conclude (State.commit t { s with pin := p }) = { State.conclude (s.commit t) with pin := q }) ∧
    ((State.conclude (s.commit t)).rsp = some .ok →
      State.conclude (State.commit t { s with pin := p }) = State.conclude (s.commit t)) := by
  obtain ⟨h, h'⟩ | ⟨_, _, _, h, h'⟩ :=
    State.succeed_or_fail_alike (s := s) (s' := { s with pin := p }) (t := t) fun _ => rfl
  · rw [State.conclude_commit_of_writesSucceed h, State.conclude_commit_of_writesSucceed h']
    exact ⟨⟨t, rfl⟩, fun _ => rfl⟩
  · rw [State.conclude_commit_of_failsFirstAt h, State.conclude_commit_of_failsFirstAt h']
    exact ⟨⟨_, rfl⟩, fun hok => by cases hok⟩

/-- Settles O27: both commands commit a tuple that does not depend on the pins. -/
theorem commandsIgnoreThePins : Obligations.CommandsIgnoreThePins := by
  have outcome (s : State) (p t : Pins) :
      State.conclude (State.commit t { s with pin := p }) =
        { State.conclude (s.commit t) with pin := (State.conclude (State.commit t { s with pin := p })).pin } := by
    obtain ⟨⟨q, hq⟩, -⟩ := s.conclude_commit_of_other_pins p t
    rw [hq]
  rintro s p i (rfl | rfl)
  · exact ⟨_, _, exec_step s, exec_step _, outcome s.advance p _, (s.advance.conclude_commit_of_other_pins p _).2⟩
  · exact ⟨_, _, exec_stop s, exec_stop _, outcome s p _, (s.conclude_commit_of_other_pins p _).2⟩

/-- A commit neither reads STATE and DIR nor writes them (R80). -/
theorem State.conclude_commit_of_other_registers (s : State) (m : MotorState) (d : Direction) (t : Pins) :
    State.conclude (State.commit t { s with motorState := m, dir := d }) =
      { State.conclude (s.commit t) with motorState := m, dir := d } := by
  obtain ⟨h, h'⟩ | ⟨_, _, _, h, h'⟩ :=
    State.succeed_or_fail_alike (s := s) (s' := { s with motorState := m, dir := d }) (t := t) fun _ => rfl
  · rw [State.conclude_commit_of_writesSucceed h, State.conclude_commit_of_writesSucceed h']
  · rw [State.conclude_commit_of_failsFirstAt h, State.conclude_commit_of_failsFirstAt h']
    rfl

/-- Settles O28: STOP is a commit of four lows, whatever the registers hold. -/
theorem stopIgnoresStateAndDir : Obligations.StopIgnoresStateAndDir := by
  intro s m d
  exact ⟨_, exec_stop s, by rw [exec_stop, State.conclude_commit_of_other_registers]⟩

/-- Settles O20: the two words by their bits, and the instruction by its meaning, which issues no pin write. -/
theorem setDirectionAssignsDirOnly : Obligations.SetDirectionAssignsDirOnly :=
  ⟨rfl, rfl, exec_setDirection⟩

/-- The effect of one request (R100 to R102, R105), whichever the requested level and the platform's answer. -/
theorem State.recordWrite_effect (s : State) (i : Pin) (v : Level) (x : PadAnswer) :
    (∀ j, j ≠ i → readPin (s.recordWrite i v x).pin j = readPin s.pin j) ∧
    (x = .ok → resultOf x = .ok ∧ readPin (s.recordWrite i v x).pin i = v) ∧
    (∀ reason level, x = .fail reason level →
      resultOf x = .fail reason ∧ readPin (s.recordWrite i v x).pin i = level) := by
  refine ⟨fun j hj => readPin_writePin_other hj _ _, ?_, ?_⟩
  · rintro rfl
    exact ⟨rfl, readPin_writePin_same _ i v⟩
  · rintro reason level rfl
    exact ⟨rfl, readPin_writePin_same _ i level⟩

/-- Settles O21: the request records one write that asks for high. -/
theorem pinSetHighEffect : Obligations.PinSetHighEffect :=
  fun i s => ⟨_, _, exec_pinSetHigh i s, s.recordWrite_effect i true _⟩

/-- Settles O22: the request records one write that asks for low. -/
theorem pinSetLowEffect : Obligations.PinSetLowEffect :=
  fun i s => ⟨_, _, exec_pinSetLow i s, s.recordWrite_effect i false _⟩

end Sys2Proof.Machine
end

section
/-!
SUPPORT. What a step does, by what the host offers and what is in progress: `StepEffect` names each way a step can go,
with the word that was accepted; from it the statements on single steps.
-/

namespace Sys2Proof.Machine

/-- A command is accepted by an idle block that is offered one at an edge without reset (R46). -/
theorem accepts_iff (s : State) :
    accepts s = true ↔ s.edge.cmdValid = true ∧ s.seq = .idle ∧ s.edge.rst = false := by
  simp [accepts, cmdReady]

theorem accepts_of_rst {s : State} (hr : s.edge.rst = true) : accepts s = false :=
  accepts_of_not_ready (cmdReady_of_rst hr)

theorem accepts_of_busy {s : State} (hq : s.seq ≠ .idle) : accepts s = false := by
  simp [accepts, cmdReady, hq]

theorem accepts_of_no_offer {s : State} (hv : s.edge.cmdValid = false) : accepts s = false := by
  simp [accepts, hv]

theorem not_acceptsWord {s : State} (h : accepts s = false) (w : CmdWord) : ¬ s.acceptsWord w := by
  simp [State.acceptsWord, h]

theorem State.acceptsWord.rst {s : State} {w : CmdWord} (h : s.acceptsWord w) : s.edge.rst = false := by
  obtain ⟨haccepts, -⟩ := h
  obtain ⟨-, -, hr⟩ := (accepts_iff s).mp haccepts
  exact hr

theorem State.acceptsWord.idle {s : State} {w : CmdWord} (h : s.acceptsWord w) : s.seq = .idle := by
  obtain ⟨haccepts, -⟩ := h
  obtain ⟨-, hq, -⟩ := (accepts_iff s).mp haccepts
  exact hq

/-- At one edge one word is accepted. -/
theorem State.acceptsWord.iff_eq {s : State} {w : CmdWord} (h : s.acceptsWord w) (w' : CmdWord) :
    s.acceptsWord w' ↔ w = w' := by
  obtain ⟨haccepts, rfl⟩ := h
  simp [State.acceptsWord, haccepts]

/-- The state a whole STEP and a whole STOP end in. -/
def State.afterStep (s : State) : State :=
  State.conclude (s.advance.commit (pattern s.advance.motorState))

def State.afterStop (s : State) : State :=
  State.conclude (s.commit (allPins false))

/-- The state in which the request for pin `k` of a commit of `t` leaves the block (R15, R80). -/
def State.afterRequest (op : PinOp) (k : Pin) (t : Pins) (s : State) : State :=
  (s.atEdge.recordWrite k (readPin t k) (s.padAnswer k (readPin t k))).requestDone op k t

/-- The ways a step can go, by the reason for each. -/
inductive StepEffect (s : State) : State → Prop
  | reset (hr : s.edge.rst = true) : StepEffect s s.atEdge.resetEvent
  | request (op : PinOp) (k : Pin) (t : Pins) (hr : s.edge.rst = false) (hq : s.seq = .busy op k t) :
      StepEffect s (s.afterRequest op k t)
  | nothing (hr : s.edge.rst = false) (hq : s.seq = .idle) (hv : s.edge.cmdValid = false) : StepEffect s s.atEdge
  | runStep (ha : s.acceptsWord 0b00#2) : StepEffect s s.atEdge.afterStep
  | runStop (ha : s.acceptsWord 0b01#2) : StepEffect s s.atEdge.afterStop
  | openStep (ha : s.acceptsWord 0b00#2) : StepEffect s (s.atEdge.openCommand .step)
  | openStop (ha : s.acceptsWord 0b01#2) : StepEffect s (s.atEdge.openCommand .stop)
  | setDirection (d : Direction) (ha : s.acceptsWord (1#1 ++ BitVec.ofBool d.bit)) :
      StepEffect s ((s.atEdge.setDir d).respond .ok)

/-- The host command a word stands for, with the word as its encoding (R47). -/
theorem decodeCmd_cases (w : CmdWord) :
    (w = 0b00#2 ∧ decodeCmd w = .step) ∨ (w = 0b01#2 ∧ decodeCmd w = .stop) ∨
    ∃ d : Direction, w = 1#1 ++ BitVec.ofBool d.bit ∧ decodeCmd w = .setDirection d := by
  have hencode := encode_decodeCmd w
  unfold decodeCmd at hencode ⊢
  split at hencode
  · next hcls => exact .inr (.inr ⟨_, (FetchWord.cmd.inj hencode).symm, if_pos hcls⟩)
  · next hcls =>
    rw [if_neg hcls]
    split at hencode
    · next hsub => exact .inr (.inl ⟨(FetchWord.cmd.inj hencode).symm, if_pos hsub⟩)
    · next hsub => exact .inl ⟨(FetchWord.cmd.inj hencode).symm, if_neg hsub⟩

/-- Every step goes one of these ways. -/
theorem stepEffect {s t : State} (h : step s = .next t) : StepEffect s t := by
  obtain ⟨hr, rfl⟩ | ⟨hr, op, k, u, hq, rfl⟩ | ⟨hr, hq, hv, rfl⟩ | ⟨hr, hq, hv, -, hexec⟩ |
    ⟨hr, hq, hv, -, op, hop, rfl⟩ := step_cases h
  · exact .reset hr
  · exact .request op k u hr hq
  · exact .nothing hr hq hv
  · have haccepts : accepts s = true := (accepts_iff s).mpr ⟨hv, hq, hr⟩
    obtain ⟨hw, hi⟩ | ⟨hw, hi⟩ | ⟨d, hw, hi⟩ := decodeCmd_cases s.edge.cmd <;> rw [hi] at hexec <;> cases hexec
    · exact .runStep ⟨haccepts, hw⟩
    · exact .runStop ⟨haccepts, hw⟩
    · exact .setDirection d ⟨haccepts, hw⟩
  · have haccepts : accepts s = true := (accepts_iff s).mpr ⟨hv, hq, hr⟩
    obtain ⟨hw, hi⟩ | ⟨hw, hi⟩ | ⟨d, hw, hi⟩ := decodeCmd_cases s.edge.cmd <;> rw [hi] at hop <;> cases hop
    · exact .openStep ⟨haccepts, hw⟩
    · exact .openStop ⟨haccepts, hw⟩

/-- Every instruction answers a next state (R111). -/
theorem exec_eq_next (i : Instr) (s : State) : ∃ t, exec i s = .next t := by
  cases i <;> exact ⟨_, rfl⟩

/-- Settles O39: of the ways a step can go only running an offered command is not already a next state, and every
instruction answers one. -/
theorem stepNeverStops : Obligations.StepNeverStops := by
  intro s
  cases hr : s.edge.rst with
  | true => exact ⟨_, step_of_rst hr⟩
  | false =>
    cases hq : s.seq with
    | busy op k t => exact ⟨_, step_of_busy hr hq⟩
    | idle =>
      cases hv : s.edge.cmdValid with
      | false => exact ⟨_, step_of_no_offer hr hq hv⟩
      | true =>
        cases hg : s.env.grain with
        | command => rw [step_of_exec hr hq hv (.inl hg)]; exact exec_eq_next _ _
        | pinWrite =>
          cases ho : opOf (decodeCmd s.edge.cmd) with
          | some op => exact ⟨_, step_of_open hr hq hv hg ho⟩
          | none => rw [step_of_exec hr hq hv (.inr ho)]; exact exec_eq_next _ _

/-! ## What the controller makes of a request's result, and the opening of a command -/

/-- The three things the controller does when the request for pin `k` has its result: it raises the error, it answers
OK after pin D, or the next pin is due (R15, R80, R114). -/
theorem State.afterRequest_cases (op : PinOp) (k : Pin) (t : Pins) (s : State) :
    let x := s.padAnswer k (readPin t k)
    let u := s.atEdge.recordWrite k (readPin t k) x
    (∃ reason, resultOf x = .fail reason ∧ s.afterRequest op k t = u.raisePinWriteError reason) ∨
    (resultOf x = .ok ∧ k = .d ∧ s.afterRequest op k t = u.respond .ok) ∨
    (resultOf x = .ok ∧ ∃ k', pinAfter k = some k' ∧ s.afterRequest op k t = u.setSeq (.busy op k' t)) := by
  intro x u
  have hdone : s.afterRequest op k t = u.requestDone op k t := rfl
  have hresult : u.pwRsp = some (resultOf x) := rfl
  cases hx : resultOf x with
  | fail reason => exact .inl ⟨reason, rfl, by simp only [hdone, State.requestDone, hresult, hx]⟩
  | ok =>
    right
    cases hk : pinAfter k with
    | none => exact .inl ⟨rfl, pinAfter_eq_none hk, by simp only [hdone, State.requestDone, hresult, hx, hk]⟩
    | some k' => exact .inr ⟨rfl, k', rfl, by simp only [hdone, State.requestDone, hresult, hx, hk]⟩

/-- What the controller does with the result touches neither STATE, DIR, the pins and the history nor the
surroundings. -/
theorem State.afterRequest_frame (op : PinOp) (k : Pin) (t : Pins) (s : State) :
    let u := s.atEdge.recordWrite k (readPin t k) (s.padAnswer k (readPin t k))
    (s.afterRequest op k t).motorState = u.motorState ∧ (s.afterRequest op k t).dir = u.dir ∧
      (s.afterRequest op k t).pin = u.pin ∧ (s.afterRequest op k t).history = u.history ∧
      (s.afterRequest op k t).env = u.env := by
  obtain ⟨_, -, h⟩ | ⟨-, -, h⟩ | ⟨-, _, -, h⟩ := s.afterRequest_cases op k t <;> rw [h] <;>
    exact ⟨rfl, rfl, rfl, rfl, rfl⟩

@[simp] theorem State.afterRequest_motorState (op : PinOp) (k : Pin) (t : Pins) (s : State) :
    (s.afterRequest op k t).motorState = s.motorState := by
  obtain ⟨hstate, -⟩ := s.afterRequest_frame op k t
  exact hstate

@[simp] theorem State.afterRequest_dir (op : PinOp) (k : Pin) (t : Pins) (s : State) :
    (s.afterRequest op k t).dir = s.dir := by
  obtain ⟨-, hdir, -⟩ := s.afterRequest_frame op k t
  exact hdir

@[simp] theorem State.openCommand_step_motorState (s : State) :
    (s.openCommand .step).motorState = nextState s.dir s.motorState := rfl
@[simp] theorem State.openCommand_stop_motorState (s : State) : (s.openCommand .stop).motorState = s.motorState := rfl
@[simp] theorem State.openCommand_dir (op : PinOp) (s : State) : (s.openCommand op).dir = s.dir := by cases op <;> rfl
@[simp] theorem State.openCommand_rsp (op : PinOp) (s : State) : (s.openCommand op).rsp = s.rsp := by cases op <;> rfl
@[simp] theorem State.openCommand_responses (op : PinOp) (s : State) :
    (s.openCommand op).responses = s.responses := by cases op <;> rfl
@[simp] theorem State.openCommand_env (op : PinOp) (s : State) : (s.openCommand op).env = s.env := by cases op <;> rfl

/-- The tuple an accepted command commits: for STEP the pattern of the advanced state, for STOP four lows (R81, R83).
-/
def State.target (op : PinOp) (s : State) : Pins :=
  match op with
  | .step => pattern (nextState s.dir s.motorState)
  | .stop => allPins false

@[simp] theorem State.openCommand_seq (op : PinOp) (s : State) :
    (s.openCommand op).seq = .busy op .a (s.target op) := by cases op <;> rfl

@[simp] theorem State.afterStep_motorState (s : State) : s.afterStep.motorState = nextState s.dir s.motorState :=
  s.advance.conclude_commit_motorState _
@[simp] theorem State.afterStep_dir (s : State) : s.afterStep.dir = s.dir := s.advance.conclude_commit_dir _
@[simp] theorem State.afterStep_seq (s : State) : s.afterStep.seq = .idle := s.advance.conclude_commit_seq _
@[simp] theorem State.afterStop_motorState (s : State) : s.afterStop.motorState = s.motorState :=
  s.conclude_commit_motorState _
@[simp] theorem State.afterStop_dir (s : State) : s.afterStop.dir = s.dir := s.conclude_commit_dir _
@[simp] theorem State.afterStop_seq (s : State) : s.afterStop.seq = .idle := s.conclude_commit_seq _

end Sys2Proof.Machine
end

section
/-!
SUPPORT. The statements about one step of the machine, each a case for each way a step can go.
-/

namespace Sys2Proof.Machine

/-- The word of a SET_DIRECTION is neither that of STEP nor that of STOP (R47). -/
theorem setDirection_word_ne (d : Direction) :
    1#1 ++ BitVec.ofBool d.bit ≠ 0b00#2 ∧ 1#1 ++ BitVec.ofBool d.bit ≠ 0b01#2 := by
  cases d <;> decide

/-- What a step makes of STATE (R11, R81). -/
theorem motorState_after_step {s t : State} (h : step s = .next t) :
    (s.edge.rst = true → t.motorState = .s0) ∧
    (s.acceptsWord 0b00#2 → t.motorState = nextState s.dir s.motorState) ∧
    (s.edge.rst = false → ¬ s.acceptsWord 0b00#2 → t.motorState = s.motorState) := by
  cases stepEffect h with
  | reset hr => simp [hr, not_acceptsWord (accepts_of_rst hr)]
  | request op k u hr hq =>
    have hbusy : s.seq ≠ .idle := by simp [hq]
    simp [hr, not_acceptsWord (accepts_of_busy hbusy)]
  | nothing hr hq hv => simp [hr, not_acceptsWord (accepts_of_no_offer hv)]
  | runStep ha => simp [ha.rst, ha]
  | runStop ha => simp [ha.rst, ha.iff_eq]
  | openStep ha => simp [ha.rst, ha]
  | openStop ha => simp [ha.rst, ha.iff_eq]
  | setDirection d ha => simp [ha.rst, ha.iff_eq, setDirection_word_ne d]

/-- Settles O40: reset brings STATE to 0 and an accepted STEP never does, because no next state is the sentinel. -/
theorem onlyStepMovesState : Obligations.OnlyStepMovesState := by
  intro s t h
  obtain ⟨hreset, hstep, hkept⟩ := motorState_after_step h
  refine ⟨hreset, hstep, hkept, ?_⟩
  by_cases ha : s.acceptsWord 0b00#2
  · simp [ha.rst, ha, hstep ha, nextState_ne_s0]
  · cases hr : s.edge.rst with
    | true => simp [hreset hr]
    | false => simp [hkept hr ha, ha]

/-- Settles O41: no way a step can go but reset and an accepted SET_DIRECTION writes DIR. -/
theorem onlySetDirectionChangesDir : Obligations.OnlySetDirectionChangesDir := by
  intro s t h
  cases stepEffect h with
  | reset hr => simp [hr, not_acceptsWord (accepts_of_rst hr)]
  | request op k u hr hq =>
    have hbusy : s.seq ≠ .idle := by simp [hq]
    simp [hr, not_acceptsWord (accepts_of_busy hbusy)]
  | nothing hr hq hv => simp [hr, not_acceptsWord (accepts_of_no_offer hv)]
  | runStep ha => simp [ha.rst, ha.iff_eq]
  | runStop ha => simp [ha.rst, ha.iff_eq]
  | openStep ha => simp [ha.rst, ha.iff_eq]
  | openStop ha => simp [ha.rst, ha.iff_eq]
  | setDirection d ha => cases d <;> simp [ha.rst, ha.iff_eq, Direction.bit]

/-- Settles O42: what is left of the ways a step can go is an edge without a command and a SET_DIRECTION. -/
theorem pinsHoldWithoutAWrite : Obligations.PinsHoldWithoutAWrite := by
  intro s t h hr hq hnotStep hnotStop
  cases stepEffect h with
  | reset hrst => simp [hr] at hrst
  | request op k u _ hbusy => simp [hq] at hbusy
  | nothing => exact ⟨rfl, rfl⟩
  | runStep ha => exact absurd ha hnotStep
  | runStop ha => exact absurd ha hnotStop
  | openStep ha => exact absurd ha hnotStep
  | openStop ha => exact absurd ha hnotStop
  | setDirection => exact ⟨rfl, rfl⟩

theorem State.isBusy_of_idle {s : State} (h : s.seq = .idle) : s.isBusy = false := by
  simp [State.isBusy, h]

theorem State.isBusy_of_busy {s : State} {op : PinOp} {k : Pin} {t : Pins} (h : s.seq = .busy op k t) :
    s.isBusy = true := by
  simp [State.isBusy, h]

/-- Counting a command in progress as a response owed, a command that is accepted is a response owed or given. -/
def OwesResponseOnce (s t : State) : Prop :=
  t.responses = s.responses ++ t.rsp.toList ∧
    t.responses.length + t.isBusy.toNat = s.responses.length + s.isBusy.toNat + (accepts s).toNat

/-- An accepted command that is over with the step. -/
theorem owesResponseOnce_of_responds {s t : State} {w : CmdWord} (ha : s.acceptsWord w) (hq : t.seq = .idle)
    {r : Response} (hrsp : t.rsp = some r) (hresponses : t.responses = s.responses ++ [r]) : OwesResponseOnce s t := by
  have haccepts : accepts s = true := ha.1
  simp [OwesResponseOnce, hrsp, hresponses, haccepts, State.isBusy_of_idle hq, State.isBusy_of_idle ha.idle]

/-- An accepted command that is now in progress. -/
theorem owesResponseOnce_openCommand {s : State} {w : CmdWord} (ha : s.acceptsWord w) (op : PinOp) :
    OwesResponseOnce s (s.atEdge.openCommand op) := by
  have haccepts : accepts s = true := ha.1
  simp [OwesResponseOnce, haccepts, State.isBusy_of_busy (s.atEdge.openCommand_seq op), State.isBusy_of_idle ha.idle]

/-- A request of the command in progress, which goes on or gives its response. -/
theorem owesResponseOnce_afterRequest {s : State} {op : PinOp} {k : Pin} {t : Pins} (hq : s.seq = .busy op k t) :
    OwesResponseOnce s (s.afterRequest op k t) := by
  have hbusy : s.seq ≠ .idle := by simp [hq]
  obtain ⟨_, -, h⟩ | ⟨-, -, h⟩ | ⟨-, _, -, h⟩ := s.afterRequest_cases op k t <;>
    simp [OwesResponseOnce, h, accepts_of_busy hbusy, State.isBusy, hq]

/-- Settles O43, by what is owed and given in each way a step can go. -/
theorem oneResponsePerAcceptedCommand : Obligations.OneResponsePerAcceptedCommand := by
  intro s t h hr
  show OwesResponseOnce s t
  cases stepEffect h with
  | reset hrst => simp [hr] at hrst
  | request op k u _ hq => exact owesResponseOnce_afterRequest hq
  | nothing _ hq hv => simp [OwesResponseOnce, accepts_of_no_offer hv, State.isBusy, hq]
  | runStep ha =>
    obtain ⟨r, hidle, hrsp, hresponses⟩ := s.atEdge.advance.conclude_commit_responds _
    exact owesResponseOnce_of_responds ha hidle hrsp hresponses
  | runStop ha =>
    obtain ⟨r, hidle, hrsp, hresponses⟩ := s.atEdge.conclude_commit_responds _
    exact owesResponseOnce_of_responds ha hidle hrsp hresponses
  | openStep ha => exact owesResponseOnce_openCommand ha .step
  | openStop ha => exact owesResponseOnce_openCommand ha .stop
  | setDirection d ha => exact owesResponseOnce_of_responds ha rfl rfl rfl

theorem okEvents_length (t : Pins) {n : Nat} (h : n ≤ 4) : (okEvents t n).length = n := by
  simp [okEvents, writeOrder, h]

/-- A whole command uses up one answer and one draw for each event it records (R104). -/
theorem State.conclude_commit_requests (s : State) (t : Pins) :
    ∃ n, (State.conclude (s.commit t)).env = s.env.afterRequests n ∧
      (State.conclude (s.commit t)).history.length = s.history.length + n := by
  obtain hall | ⟨i, reason, level, hfirst⟩ := s.writesSucceed_or_failsFirstAt t
  · rw [State.conclude_commit_of_writesSucceed hall]
    exact ⟨4, rfl, by simp [okEvents_length]⟩
  · rw [State.conclude_commit_of_failsFirstAt hfirst]
    exact ⟨_, rfl, by simp [okEvents_length t (pinIndex_lt_four i).le]⟩

/-- A step uses up one host edge, and as many answers as it records events (R20, R104). -/
theorem env_after_step {s t : State} (h : step s = .next t) :
    ∃ n, t.env = s.atEdge.env.afterRequests n ∧ (s.edge.rst = false → t.history.length = s.history.length + n) ∧
      (s.edge.rst = true → n = 0) := by
  cases stepEffect h with
  | reset hr => exact ⟨0, rfl, by simp [hr], fun _ => rfl⟩
  | request op k u hr hq =>
    obtain ⟨-, -, -, hhistory, henv⟩ := s.afterRequest_frame op k u
    exact ⟨1, henv, by simp [hhistory], by simp [hr]⟩
  | nothing hr => exact ⟨0, rfl, fun _ => rfl, by simp [hr]⟩
  | runStep ha =>
    obtain ⟨n, henv, hhistory⟩ := s.atEdge.advance.conclude_commit_requests _
    exact ⟨n, henv, fun _ => hhistory, by simp [ha.rst]⟩
  | runStop ha =>
    obtain ⟨n, henv, hhistory⟩ := s.atEdge.conclude_commit_requests _
    exact ⟨n, henv, fun _ => hhistory, by simp [ha.rst]⟩
  | openStep ha => exact ⟨0, rfl, fun _ => rfl, by simp [ha.rst]⟩
  | openStop ha => exact ⟨0, rfl, fun _ => rfl, by simp [ha.rst]⟩
  | setDirection d ha => exact ⟨0, rfl, fun _ => rfl, by simp [ha.rst]⟩

/-- Settles O44: the fields of the surroundings `env_after_step` gives. -/
theorem surroundingsOnlyUsedUp : Obligations.SurroundingsOnlyUsedUp := by
  intro s t h
  obtain ⟨n, henv, hevents, hreset⟩ := env_after_step h
  rw [henv]
  exact ⟨rfl, rfl, rfl, n, rfl, rfl, hevents, hreset⟩

end Sys2Proof.Machine
end

section
/-!
SUPPORT. The statements on one way a step can go, on a word placed for the next step, and on the ports (R45).
-/

namespace Sys2Proof.Machine

/-- Settles O29: the whole-command grain runs what it accepts at once. -/
theorem stepRunsTheOfferedCommand : Obligations.StepRunsTheOfferedCommand :=
  fun _ hq hr hv hg => step_of_exec hr hq hv (.inl hg)

/-- Settles O32: the edge goes by and nothing else happens. -/
theorem nothingHappensWithoutACommand : Obligations.NothingHappensWithoutACommand :=
  fun _ hq hr hv => step_of_no_offer hr hq hv

/-- Settles O35: the reset event keeps the surroundings, of which the edge has used up one input. -/
theorem nothingSurvivesReset : Obligations.NothingSurvivesReset :=
  fun _ hr => step_of_rst hr

/-- Settles O36: the registers field by field, and the two ports of an idle block without a response. -/
theorem stateAfterReset : Obligations.StateAfterReset :=
  ⟨fun _ => ⟨rfl, rfl, rfl, rfl, rfl, rfl, rfl, rfl, rfl, cmdReady_of_idle rfl, rspValidO_of_rsp_none rfl⟩, rfl⟩

/-- Settles O30: the request's instruction records the write, and the controller does one of its three things. -/
theorem busyStepRunsTheRequest : Obligations.BusyStepRunsTheRequest := by
  intro s op k t hq hr
  have hexec := exec_request s.atEdge k (readPin t k)
  rw [decode_pinwWord] at hexec
  refine ⟨_, hexec, ?_⟩
  have hstep : step s = .next (s.afterRequest op k t) := step_of_busy hr hq
  obtain ⟨reason, hx, h⟩ | ⟨hx, hk, h⟩ | ⟨hx, k', hk, h⟩ := s.afterRequest_cases op k t
  · exact .inl ⟨reason, congrArg some hx, hstep.trans (congrArg _ h)⟩
  · exact .inr (.inl ⟨congrArg some hx, hk, hstep.trans (congrArg _ h)⟩)
  · exact .inr (.inr ⟨congrArg some hx, k', pinIndex_pinAfter hk, hstep.trans (congrArg _ h)⟩)

/-- Settles O31: STEP and STOP open their command, the two SET_DIRECTIONs run whole. -/
theorem pinWriteGrainAccepts : Obligations.PinWriteGrainAccepts := by
  intro s hq hr hv hg s1 m
  refine ⟨fun hw => ?_, fun hw => ?_, fun hw => ?_, fun hw => ?_⟩
  · exact step_of_open (op := .step) hr hq hv hg (by rw [hw]; rfl)
  · exact step_of_open (op := .stop) hr hq hv hg (by rw [hw]; rfl)
  · have hi : decodeCmd s.edge.cmd = .setDirection .forward := by rw [hw]; rfl
    rw [step_of_exec hr hq hv (.inr (by rw [hi]; rfl)), hi]
    rfl
  · have hi : decodeCmd s.edge.cmd = .setDirection .reverse := by rw [hw]; rfl
    rw [step_of_exec hr hq hv (.inr (by rw [hi]; rfl)), hi]
    rfl

theorem seq_ne_idle_iff {q : Seq} : q ≠ .idle ↔ ∃ op k t, q = .busy op k t := by
  cases q <;> simp

/-- Without a reset the step of a busy block is that of the state as the edge finds it: the offer is not looked at. -/
theorem step_eq_of_busy {s s' : State} (hr : s.edge.rst = false) (hr' : s'.edge.rst = false) (hbusy : s.seq ≠ .idle)
    (hat : s.atEdge = s'.atEdge) : step s = step s' := by
  obtain ⟨op, k, t, hq⟩ := seq_ne_idle_iff.mp hbusy
  have hq' : s'.seq = .busy op k t := (congrArg State.seq hat).symm.trans hq
  rw [step_of_busy hr hq, step_of_busy hr' hq']
  exact congrArg (fun u : State => Host.Outcome.next
    ((u.recordWrite k (readPin t k) (u.padAnswer k (readPin t k))).requestDone op k t)) hat

/-- Settles O33: the two states differ in what is offered at the edge only, and `step_eq_of_busy` holds. -/
theorem offerWhileBusyHasNoEffect : Obligations.OfferWhileBusyHasNoEffect := by
  intro s v w rest hbusy
  exact ⟨accepts_of_busy hbusy, step_eq_of_busy rfl rfl hbusy rfl⟩

/-- A placed word is the number of its format's width that the table reads as it (log entry 10). -/
theorem State.withFetchWord_cmd (s : State) (w : CmdWord) : s.withFetchWord 2 w.toNat = s.placeWord (.cmd w) := by
  rw [State.withFetchWord, tableWord_two_toNat]

theorem State.withFetchWord_pinw (s : State) (w : PinwWord) : s.withFetchWord 3 w.toNat = s.placeWord (.pinw w) := by
  rw [State.withFetchWord, tableWord_three_toNat]

/-- The request a placed request word makes due is that word (R49). -/
theorem pinwWord_of_placed (w : PinwWord) :
    pinwWord (Pin.ofAddr (w.extractLsb' 1 2)) (readPin (allPins (w.getLsbD 0)) (Pin.ofAddr (w.extractLsb' 1 2)))
      = w := by
  rw [readPin_allPins, pinwWord_fields]

/-- Settles O37: a placed command word is offered to an idle block, a placed request word is the request that is due.
-/
theorem placedWordRunsNext : Obligations.PlacedWordRunsNext := by
  refine ⟨fun s w => ?cmd, fun s w => ?pinw⟩
  case cmd =>
    rw [State.withFetchWord_cmd]
    exact step_of_exec rfl rfl rfl (.inl rfl)
  case pinw =>
    rw [State.withFetchWord_pinw]
    have hword := pinwWord_of_placed w
    refine ⟨congrArg (fun x => some (FetchWord.pinw x)) hword, ?_⟩
    have hexec := exec_request (s.placeWord (.pinw w)).atEdge (Pin.ofAddr (w.extractLsb' 1 2))
      (readPin (allPins (w.getLsbD 0)) (Pin.ofAddr (w.extractLsb' 1 2)))
    rw [hword] at hexec
    exact ⟨_, _, _, _, hexec, step_of_busy rfl rfl⟩

theorem rspErr_eq_false_iff (r : Response) : rspErr r = false ↔ r = .ok := by
  cases r <;> simp [rspErr]

theorem rspReason_eq_some_iff (r : Response) (reason : Reason) :
    rspReason r = some reason ↔ r = .pinWriteError reason := by
  cases r <;> simp [rspReason]

theorem pwFail_eq_false_iff (r : PinResult) : pwFail r = false ↔ r = .ok := by
  cases r <;> simp [pwFail]

theorem pwReason_eq_some_iff (r : PinResult) (reason : Reason) : pwReason r = some reason ↔ r = .fail reason := by
  cases r <;> simp [pwReason]

theorem rspReasonO_eq_some_iff (s : State) (reason : Reason) :
    rspReasonO s = some reason ↔ s.rsp = some (.pinWriteError reason) := by
  simp [rspReasonO, Option.bind_eq_some_iff, rspReason_eq_some_iff]

theorem dirO_eq_true_iff (s : State) : dirO s = true ↔ s.dir = .reverse := by
  unfold dirO
  cases s.dir <;> decide

theorem pwO_of_busy {s : State} {op : PinOp} {k : Pin} {t : Pins} (hq : s.seq = .busy op k t) :
    pwO s = some (pinwWord k (readPin t k)) := by
  simp only [pwO, hq]

theorem pwO_eq_none_iff (s : State) : pwO s = none ↔ s.seq = .idle := by
  refine ⟨fun h => ?_, pwO_of_idle⟩
  cases hq : s.seq with
  | idle => rfl
  | busy op k t => rw [pwO_of_busy hq] at h; cases h

/-- Settles O38, port by port. -/
theorem portsShowTheState : Obligations.PortsShowTheState := by
  intro s
  refine ⟨?ready, ?accepts, fun _ => rfl, s.motorState.toNat_code, dirO_eq_true_iff s, ?valid, ?err,
    rspReasonO_eq_some_iff s, ?errOfReason, pwO_eq_none_iff s, fun _ _ _ => pwO_of_busy, ?done, ?fail, ?reason⟩
  case ready => simp [cmdReady]
  case accepts => simp [accepts, cmdReady]
  case valid => simp [rspValidO, Option.isSome_iff_ne_none]
  case err => simp [rspErrO, Option.map_eq_some_iff, rspErr_eq_false_iff]
  case errOfReason =>
    intro reason h
    rw [rspErrO, (rspReasonO_eq_some_iff s reason).mp h]
    rfl
  case done => simp [pwDoneO, Option.isSome_iff_ne_none]
  case fail => simp [pwFailO, Option.map_eq_some_iff, pwFail_eq_false_iff]
  case reason => simp [pwReasonO, Option.bind_eq_some_iff, pwReason_eq_some_iff]

end Sys2Proof.Machine
end

section
/-!
SUPPORT. What every step keeps: SEQ sound (R15), the pads following the history (R40, R107), and low requests only while
STATE is 0. A commit keeps whatever each of its pin writes keeps.
-/

namespace Sys2Proof.Machine

/-- What every pin write of a commit keeps, the commit keeps, wherever it ends (R80). -/
theorem State.commitPins_induction {P : State → Prop} {t : Pins}
    (hwrite : ∀ s i x, P s → P (s.recordWrite i (readPin t i) x)) (l : List Pin) {s : State} (hs : P s) :
    P (s.commitPins t l).2 := by
  induction l generalizing s with
  | nil => exact hs
  | cons i rest ih =>
    cases hx : s.padAnswer i (readPin t i) with
    | ok => rw [State.commitPins_ok rest hx]; exact ih (hwrite s i _ hs)
    | fail reason level => rw [State.commitPins_fail rest hx]; exact hwrite s i _ hs

/-- A whole command keeps what its pin writes and its response keep. -/
theorem State.conclude_commit_induction {P : State → Prop} {t : Pins}
    (hwrite : ∀ s i x, P s → P (s.recordWrite i (readPin t i) x)) (hrespond : ∀ s r, P s → P (s.respond r))
    {s : State} (hs : P s) : P (State.conclude (s.commit t)) := by
  have hcommit : P (s.commit t).2 := State.commitPins_induction hwrite writeOrder hs
  unfold State.conclude
  split
  · exact hrespond _ _ hcommit
  · exact hrespond _ _ hcommit

/-! ## SEQ -/

/-- An idle block is sound. -/
theorem seqSound_of_idle {s : State} (h : s.seq = .idle) : s.seqSound := by
  simp [State.seqSound, h]

/-- What `op` commits in a state, STATE having advanced (R15). -/
def CommitsInState (op : PinOp) (t : Pins) (m : MotorState) : Prop :=
  match op with
  | .step => t = pattern m ∧ m ≠ .s0
  | .stop => t = allPins false

/-- R15 in one form for both commands. -/
theorem seqSound_iff_of_busy {s : State} {op : PinOp} {k : Pin} {t : Pins} (h : s.seq = .busy op k t) :
    s.seqSound ↔
      (∀ j, pinIndex j < pinIndex k → readPin s.pin j = readPin t j) ∧ CommitsInState op t s.motorState := by
  cases op <;> simp [State.seqSound, h, CommitsInState]

/-- Before the first write nothing is to be held yet, and the tuple is that of the command accepted. -/
theorem seqSound_openCommand (op : PinOp) (s : State) : (s.openCommand op).seqSound := by
  rw [seqSound_iff_of_busy (s.openCommand_seq op)]
  refine ⟨fun j hj => absurd hj (Nat.not_lt_zero _), ?_⟩
  cases op
  · exact ⟨rfl, nextState_ne_s0 _ _⟩
  · rfl

/-- After a write that succeeded, that pin holds the tuple too, and the next one is due. -/
theorem seqSound_afterRequest {s : State} {op : PinOp} {k : Pin} {t : Pins} (hq : s.seq = .busy op k t)
    (hs : s.seqSound) : (s.afterRequest op k t).seqSound := by
  obtain ⟨hheld, hcommits⟩ := (seqSound_iff_of_busy hq).mp hs
  obtain ⟨_, -, h⟩ | ⟨-, -, h⟩ | ⟨hx, k', hk, h⟩ := s.afterRequest_cases op k t <;> rw [h]
  · exact seqSound_of_idle rfl
  · exact seqSound_of_idle rfl
  · rw [seqSound_iff_of_busy rfl]
    refine ⟨fun j hj => ?_, hcommits⟩
    have hok : s.padAnswer k (readPin t k) = .ok := by
      cases hx' : s.padAnswer k (readPin t k) with
      | ok => rfl
      | fail => rw [hx'] at hx; cases hx
    rw [pinIndex_pinAfter hk] at hj
    simp only [State.setSeq_pin, State.recordWrite_pin, State.atEdge_pin, hok, levelAfter, readPin_writePin]
    split
    · next hjk => rw [hjk]
    · next hjk =>
      have hne : pinIndex j ≠ pinIndex k := fun heq => hjk (pinIndex_injective heq)
      exact hheld j (by omega)

/-- Settles O49: a step that leaves SEQ busy has opened a command or written the pin that was due. -/
theorem seqSoundKept : Obligations.SeqSoundKept := by
  intro s t hs h
  cases stepEffect h with
  | reset => exact seqSound_of_idle rfl
  | request op k u _ hq => exact seqSound_afterRequest hq hs
  | nothing _ hq => exact seqSound_of_idle hq
  | runStep => exact seqSound_of_idle (State.afterStep_seq _)
  | runStop => exact seqSound_of_idle (State.afterStop_seq _)
  | openStep => exact seqSound_openCommand .step _
  | openStop => exact seqSound_openCommand .stop _
  | setDirection => exact seqSound_of_idle rfl

/-- Settles O48: reset leaves SEQ idle. -/
theorem seqSoundAfterReset : Obligations.SeqSoundAfterReset :=
  fun _ => seqSound_of_idle rfl

/-! ## The pads and the history -/

/-- A new event is the last one on its pin. -/
theorem lastEventOn_append_same (h : List Event) (e : Event) : lastEventOn (h ++ [e]) e.pin = some e := by
  simp [lastEventOn]

/-- A new event is none on another pin. -/
theorem lastEventOn_append_other {e : Event} {i : Pin} (hne : e.pin ≠ i) (h : List Event) :
    lastEventOn (h ++ [e]) i = lastEventOn h i := by
  simp [lastEventOn, hne]

/-- Without an event every pin is to hold its reset level. -/
theorem padsFollowHistory_of_reset {s : State} (hhistory : s.history = []) (hpin : s.pin = s.env.pinReset) :
    s.padsFollowHistory := by
  intro i
  rw [hhistory, hpin]
  rfl

/-- The invariant speaks of the pins, the history and `PIN_RESET` only. -/
theorem padsFollowHistory_congr {s u : State} (hpin : u.pin = s.pin) (hhistory : u.history = s.history)
    (hreset : u.env.pinReset = s.env.pinReset) : u.padsFollowHistory ↔ s.padsFollowHistory := by
  simp only [State.padsFollowHistory, hpin, hhistory, hreset]

/-- One pin write keeps it: the written pin shows the new event's level if the write succeeded, and no other pin and
no other pin's last event changes (R100 to R102). -/
theorem padsFollowHistory_recordWrite {s : State} (hs : s.padsFollowHistory) (i : Pin) (v : Level) (x : PadAnswer) :
    (s.recordWrite i v x).padsFollowHistory := by
  intro j
  by_cases hj : j = i
  · subst hj
    rw [State.recordWrite_history, lastEventOn_append_same _ ⟨j, v, resultOf x⟩]
    cases x with
    | ok => exact fun _ => readPin_writePin_same _ j v
    | fail => exact fun hok => by cases hok
  · have hother := hs j
    rw [State.recordWrite_history, lastEventOn_append_other (Ne.symm hj), State.recordWrite_pin,
      readPin_writePin_other hj]
    exact hother

/-- Settles O51: a step that changes pins or history resets both or writes pins. -/
theorem padsFollowHistoryKept : Obligations.PadsFollowHistoryKept := by
  intro s t hs h
  have hatEdge : s.atEdge.padsFollowHistory := hs
  have commits (u : State) (w : Pins) (hu : u.padsFollowHistory) : (State.conclude (u.commit w)).padsFollowHistory :=
    State.conclude_commit_induction (P := State.padsFollowHistory)
      (fun _ i x hs => padsFollowHistory_recordWrite hs i _ x) (fun _ _ hs => hs) hu
  cases stepEffect h with
  | reset => exact padsFollowHistory_of_reset rfl rfl
  | request op k u =>
    obtain ⟨-, -, hpin, hhistory, henv⟩ := s.afterRequest_frame op k u
    rw [padsFollowHistory_congr hpin hhistory (congrArg Env.pinReset henv)]
    exact padsFollowHistory_recordWrite hatEdge k _ _
  | nothing => exact hatEdge
  | runStep => exact commits s.atEdge.advance _ hatEdge
  | runStop => exact commits s.atEdge _ hatEdge
  | openStep => exact hatEdge
  | openStop => exact hatEdge
  | setDirection => exact hatEdge

/-- Settles O50: the pins hold `PIN_RESET` and there is no event. -/
theorem padsFollowHistoryAfterReset : Obligations.PadsFollowHistoryAfterReset :=
  fun _ => padsFollowHistory_of_reset rfl rfl

/-! ## Low requests only while STATE is 0 -/

/-- Every event since reset asked for low. -/
def OnlyLows (h : List Event) : Prop :=
  ∀ e ∈ h, e.level = false

/-- A write that asks for low keeps it so. -/
theorem onlyLows_append {h : List Event} (hs : OnlyLows h) {e : Event} (he : e.level = false) :
    OnlyLows (h ++ [e]) := by
  intro e' hmem
  obtain hold | hnew := List.mem_append.mp hmem
  · exact hs e' hold
  · rw [List.mem_singleton.mp hnew, he]

/-- A whole STOP asks for low only (R83). -/
theorem onlyLows_afterStop {s : State} (hs : OnlyLows s.history) : OnlyLows s.afterStop.history :=
  State.conclude_commit_induction (P := fun u => OnlyLows u.history)
    (fun _ i _ hu => onlyLows_append hu (readPin_allPins false i)) (fun _ _ hu => hu) hs

/-- Settles O53: while STATE is 0 no STEP is in progress or accepted, and a STOP's writes ask for low. -/
theorem onlyLowsAtZeroKept : Obligations.OnlyLowsAtZeroKept := by
  intro s t hsound hs h hzero
  show OnlyLows t.history
  cases stepEffect h with
  | reset => exact fun e he => absurd he List.not_mem_nil
  | request op k u _ hq =>
    have hzero' : s.motorState = .s0 := by simpa using hzero
    obtain ⟨-, hcommits⟩ := (seqSound_iff_of_busy hq).mp hsound
    obtain ⟨-, -, -, hhistory, -⟩ := s.afterRequest_frame op k u
    rw [hhistory]
    cases op with
    | step =>
      obtain ⟨-, hne⟩ := hcommits
      exact absurd hzero' hne
    | stop =>
      have htuple : u = allPins false := hcommits
      exact onlyLows_append (hs hzero') (by rw [htuple, readPin_allPins])
  | nothing => exact hs hzero
  | runStep => exact absurd (hzero.symm.trans (State.afterStep_motorState _)).symm (nextState_ne_s0 _ _)
  | runStop => exact onlyLows_afterStop (hs (s.atEdge.afterStop_motorState.symm.trans hzero))
  | openStep => exact absurd hzero (nextState_ne_s0 _ _)
  | openStop => exact hs hzero
  | setDirection => exact hs hzero

/-- Settles O52: there is no event. -/
theorem onlyLowsAtZeroAfterReset : Obligations.OnlyLowsAtZeroAfterReset :=
  fun _ _ _ he => absurd he List.not_mem_nil

end Sys2Proof.Machine
end

section
/-!
SUPPORT. Runs: one step more at either end, the edges without reset that are left, and STATE 0 along a run.
-/

namespace Sys2Proof.Machine

theorem run_zero (s : State) : Sys2Proof.core.run 0 s = .next s := rfl

/-- A run of any machine, its first step taken. -/
theorem core_run_succ {M : Host.Core} {s u : M.State} (h : M.step s = .next u) (n : Nat) :
    M.run (n + 1) s = M.run n u := by
  rw [Host.Core.run, h]

theorem run_succ {s u : State} (h : step s = .next u) (n : Nat) :
    Sys2Proof.core.run (n + 1) s = Sys2Proof.core.run n u :=
  core_run_succ (M := Sys2Proof.core) h n

/-- A run of `n` steps and one more. -/
theorem run_succ_last {n : Nat} {s u : State} (h : Sys2Proof.core.run n s = .next u) :
    Sys2Proof.core.run (n + 1) s = step u := by
  induction n generalizing s with
  | zero =>
    obtain rfl : s = u := Host.Outcome.next.inj h
    obtain ⟨v, hv⟩ := stepNeverStops s
    rw [run_succ hv, hv]
    rfl
  | succ n ih =>
    obtain ⟨v, hv⟩ := stepNeverStops s
    rw [run_succ hv] at h ⊢
    exact ih h

/-- Within the edges without reset the coming ones have `rst` = 0, one after the other. -/
theorem State.noResetFor.rst_drop {s : State} {n i : Nat} (h : s.noResetFor n) (hi : i < n) :
    ((s.env.inputs.drop i).headD edgeIdle).rst = false := by
  rw [List.headD_eq_head?_getD, List.head?_drop]
  cases he : s.env.inputs[i]? with
  | none => rfl
  | some e => exact h e (List.mem_of_getElem? ((List.getElem?_take_of_lt hi).trans he))

theorem State.noResetFor.rst {s : State} {n : Nat} (h : s.noResetFor n) (hn : 0 < n) : s.edge.rst = false :=
  h.rst_drop hn

/-- After an edge one fewer is left. -/
theorem State.noResetFor.tail {s u : State} {n : Nat} (h : s.noResetFor (n + 1))
    (hu : u.env.inputs = s.env.inputs.tail) : u.noResetFor n := by
  intro e he
  rw [hu] at he
  refine h e ?_
  cases hl : s.env.inputs with
  | nil => simp [hl] at he
  | cons e' rest => rw [hl] at he; exact List.mem_cons_of_mem _ he

theorem State.noResetFor.mono {s : State} {m n : Nat} (h : s.noResetFor n) (hmn : m ≤ n) : s.noResetFor m :=
  fun e he => h e (List.take_subset_take_left _ hmn he)

/-- A step without a reset keeps STATE at 0 exactly if it accepts no STEP, and brings no other STATE to 0. -/
theorem motorState_eq_s0_after_step {s t : State} (h : step s = .next t) (hr : s.edge.rst = false) :
    t.motorState = .s0 ↔ s.motorState = .s0 ∧ ¬ s.acceptsWord 0b00#2 := by
  obtain ⟨-, -, -, hzero⟩ := onlyStepMovesState s t h
  simpa [hr] using hzero

/-- A run without a reset ends with STATE 0 exactly if it began so and accepted no STEP. -/
theorem motorState_eq_s0_after_run {n : Nat} {s t : State} (hnr : s.noResetFor n)
    (h : Sys2Proof.core.run n s = .next t) :
    t.motorState = .s0 ↔ s.motorState = .s0 ∧ ¬ s.acceptsWordWithin 0b00#2 n := by
  induction n generalizing s with
  | zero =>
    cases h
    simp
  | succ n ih =>
    obtain ⟨u, hu⟩ := stepNeverStops s
    rw [run_succ hu] at h
    obtain ⟨-, -, hinputs, -⟩ := surroundingsOnlyUsedUp s u hu
    rw [ih (hnr.tail hinputs) h, motorState_eq_s0_after_step hu (hnr.rst n.succ_pos),
      State.acceptsWordWithin_succ _ n hu, not_or, and_assoc]

/-- Settles O54: the run begins with STATE 0. -/
theorem stateZeroIffNoStepSinceReset : Obligations.StateZeroIffNoStepSinceReset := by
  intro n s t hzero hnr h
  rw [motorState_eq_s0_after_run hnr h, and_iff_right hzero]

end Sys2Proof.Machine
end

section
/-!
SUPPORT. The pin-write grain (R8, R144, R148): the state of a command in progress before each of its writes, the run of
the whole command, and that it ends in the state of the command taken as one step but for the edges gone by.
-/

namespace Sys2Proof.Machine

/-- A command in progress ends (R148), by induction on how many pins are left to write: a request either ends the
command or makes the next pin due. -/
theorem busy_run_ends {m : Nat} {s : State} {op : PinOp} {k : Pin} {t : Pins} (hq : s.seq = .busy op k t)
    (hm : m = 4 - pinIndex k) (hnr : s.noResetFor m) :
    ∃ (n : Nat) (u : State) (r : Response), 1 ≤ n ∧ n ≤ m ∧
      Sys2Proof.core.run n s = .next u ∧ u.seq = .idle ∧ u.rsp = some r ∧ u.responses = s.responses ++ [r] := by
  induction m generalizing s k with
  | zero =>
    have := pinIndex_lt_four k
    omega
  | succ m ih =>
    have hstep : step s = .next (s.afterRequest op k t) := step_of_busy (hnr.rst m.succ_pos) hq
    obtain ⟨reason, -, h⟩ | ⟨-, -, h⟩ | ⟨-, k', hk, h⟩ := s.afterRequest_cases op k t
    · exact ⟨1, _, .pinWriteError reason, le_rfl, m.succ_pos, h ▸ run_succ hstep 0, rfl, rfl, rfl⟩
    · exact ⟨1, _, .ok, le_rfl, m.succ_pos, h ▸ run_succ hstep 0, rfl, rfl, rfl⟩
    · have hq' : (s.afterRequest op k t).seq = .busy op k' t := by rw [h]; rfl
      have hinputs : (s.afterRequest op k t).env.inputs = s.env.inputs.tail := by rw [h]; rfl
      have hkept : (s.afterRequest op k t).responses = s.responses := by rw [h]; rfl
      have hleft := pinIndex_pinAfter hk
      obtain ⟨n, u, r, hpos, hn, hrun, hidle, hrsp, hresponses⟩ := ih hq' (by omega) (hnr.tail hinputs)
      exact ⟨n + 1, u, r, by omega, by omega, (run_succ hstep n).trans hrun, hidle, hrsp, hkept ▸ hresponses⟩

/-- Settles O45: four edges without reset cover the pins that are left. -/
theorem busyCommandEnds : Obligations.BusyCommandEnds :=
  fun _ _ k _ hq hnr => busy_run_ends hq rfl (hnr.mono (Nat.sub_le 4 (pinIndex k)))

/-- The state with `n` of the host's edges gone by. -/
def State.elapse (n : Nat) (s : State) : State :=
  { s with env := { s.env with inputs := s.env.inputs.drop n } }

/-- The state of a command in progress, opened in `s`, whose writes before pin `k` have succeeded: pin `k` is due, and
an edge has gone by for each write. -/
def State.midCommand (op : PinOp) (t : Pins) (k : Pin) (s : State) : State :=
  { (s.afterWrites t (pinIndex k)).elapse (pinIndex k) with
    seq := .busy op k t
    rsp := if pinIndex k = 0 then s.rsp else none }

/-- Before pin A nothing has happened yet. -/
theorem State.midCommand_a {s : State} {op : PinOp} {t : Pins} (hq : s.seq = .busy op .a t) :
    s.midCommand op t .a = s := by
  simp only [State.midCommand, pinIndex_a, State.afterWrites_zero, if_true, ← hq]
  rfl

/-- The edge at which the write of pin `k` stands. -/
theorem State.midCommand_rst {s : State} (hnr : s.noResetFor 4) (op : PinOp) (t : Pins) (k : Pin) :
    (s.midCommand op t k).edge.rst = false :=
  hnr.rst_drop (pinIndex_lt_four k)

/-- The platform's answer there is the one the commit gets. -/
theorem State.padAnswer_midCommand (op : PinOp) (t : Pins) (k : Pin) (s : State) :
    (s.midCommand op t k).padAnswer k (readPin t k) = s.commitAnswer t k :=
  s.padAnswer_afterWrites t k

/-- The write of pin `k`, with one more edge gone by, but for the registers of the handshake. -/
theorem State.midCommand_recordWrite (op : PinOp) (t : Pins) (k : Pin) (x : PadAnswer) (s : State) :
    (s.midCommand op t k).atEdge.recordWrite k (readPin t k) x =
      { ((s.afterWrites t (pinIndex k)).recordWrite k (readPin t k) x).elapse (pinIndex k + 1) with
        seq := .busy op k t
        rsp := none } := by
  simp [State.midCommand, State.elapse, State.recordWrite, State.atEdge, State.afterWrites, Env.afterRequests]

/-- A write that succeeds makes the next pin due. -/
theorem step_midCommand_ok {s : State} {t : Pins} {k k' : Pin} (hnr : s.noResetFor 4) (op : PinOp)
    (hk : pinAfter k = some k') (hx : s.commitAnswer t k = .ok) :
    step (s.midCommand op t k) = .next (s.midCommand op t k') := by
  rw [step_of_busy (State.midCommand_rst hnr op t k) rfl, State.padAnswer_midCommand, hx,
    State.midCommand_recordWrite, State.afterWrites_succ, ← pinIndex_pinAfter hk]
  have hpos : pinIndex k' ≠ 0 := by rw [pinIndex_pinAfter hk]; exact Nat.succ_ne_zero _
  simp [State.requestDone, State.midCommand, State.elapse, State.afterWrites, State.setSeq, hk, hpos]

/-- The write of pin D that succeeds ends the command as the commit ends. -/
theorem step_midCommand_last {s : State} {t : Pins} (hnr : s.noResetFor 4) (op : PinOp) (h : s.writesSucceed t) :
    step (s.midCommand op t .d) = .next ((State.conclude (s.commit t)).elapse 4) := by
  rw [step_of_busy (State.midCommand_rst hnr op t .d) rfl, State.padAnswer_midCommand, h .d,
    State.midCommand_recordWrite, State.afterWrites_succ, State.commit_of_writesSucceed h]
  rfl

/-- The first write that fails ends the command as the commit ends. -/
theorem step_midCommand_fail {s : State} {t : Pins} {i : Pin} {reason : Reason} {level : Level}
    (hnr : s.noResetFor 4) (op : PinOp) (h : s.failsFirstAt t i reason level) :
    step (s.midCommand op t i) = .next ((State.conclude (s.commit t)).elapse (pinIndex i + 1)) := by
  obtain ⟨-, hx⟩ := id h
  rw [step_of_busy (State.midCommand_rst hnr op t i) rfl, State.padAnswer_midCommand, hx,
    State.midCommand_recordWrite, State.commit_of_failsFirstAt h]
  rfl

/-- A command in progress stands at pin `k` after as many steps as pins come before it, if their writes succeed. -/
theorem run_midCommand {s : State} {op : PinOp} {t : Pins} (hq : s.seq = .busy op .a t) (hnr : s.noResetFor 4)
    (k : Pin) (h : ∀ j, pinIndex j < pinIndex k → s.commitAnswer t j = .ok) :
    Sys2Proof.core.run (pinIndex k) s = .next (s.midCommand op t k) := by
  have turn (j j' : Pin) (hj : pinAfter j = some j') (hx : s.commitAnswer t j = .ok)
      (hrun : Sys2Proof.core.run (pinIndex j) s = .next (s.midCommand op t j)) :
      Sys2Proof.core.run (pinIndex j') s = .next (s.midCommand op t j') := by
    rw [pinIndex_pinAfter hj]
    exact (run_succ_last hrun).trans (step_midCommand_ok hnr op hj hx)
  have start : Sys2Proof.core.run (pinIndex .a) s = .next (s.midCommand op t .a) := by
    rw [State.midCommand_a hq]
    rfl
  cases k with
  | a => exact start
  | b => exact turn .a .b rfl (h .a (by decide)) start
  | c => exact turn .b .c rfl (h .b (by decide)) (turn .a .b rfl (h .a (by decide)) start)
  | d =>
    exact turn .c .d rfl (h .c (by decide))
      (turn .b .c rfl (h .b (by decide)) (turn .a .b rfl (h .a (by decide)) start))

/-- A run of a command without a failing write. -/
theorem run_command_of_writesSucceed {s : State} {op : PinOp} {t : Pins} (hq : s.seq = .busy op .a t)
    (hnr : s.noResetFor 4) (h : s.writesSucceed t) :
    Sys2Proof.core.run 4 s = .next ((State.conclude (s.commit t)).elapse 4) := by
  have hrun : Sys2Proof.core.run 3 s = .next (s.midCommand op t .d) := run_midCommand hq hnr .d fun j _ => h j
  exact (run_succ_last hrun).trans (step_midCommand_last hnr op h)

/-- A run of a command, whatever the platform answers: it ends as the commit does, after one step for each write. -/
theorem run_command {s : State} {op : PinOp} {t : Pins} (hq : s.seq = .busy op .a t) (hnr : s.noResetFor 4) :
    ∃ n, 1 ≤ n ∧ n ≤ 4 ∧ Sys2Proof.core.run n s = .next ((State.conclude (s.commit t)).elapse n) := by
  obtain hall | ⟨i, reason, level, hfirst⟩ := s.writesSucceed_or_failsFirstAt t
  · exact ⟨4, by decide, le_rfl, run_command_of_writesSucceed hq hnr hall⟩
  · obtain ⟨hbefore, -⟩ := id hfirst
    exact ⟨pinIndex i + 1, Nat.succ_pos _, pinIndex_lt_four i,
      (run_succ_last (run_midCommand hq hnr i hbefore)).trans (step_midCommand_fail hnr op hfirst)⟩

/-- Each number of writes short of four is the place of a pin in the order. -/
theorem exists_pinIndex_eq {j : Nat} (h : j < 4) : ∃ k, pinIndex k = j := by
  match j, h with
  | 0, _ => exact ⟨.a, rfl⟩
  | 1, _ => exact ⟨.b, rfl⟩
  | 2, _ => exact ⟨.c, rfl⟩
  | 3, _ => exact ⟨.d, rfl⟩

/-- Settles O46: before the last write the command stands at a pin, with the ones before it written; after it the pins
are those of the whole commit. -/
theorem intermediateCombinations : Obligations.IntermediateCombinations := by
  intro s op t hq hnr h j hj
  obtain hlt | rfl := hj.lt_or_eq
  · obtain ⟨k, rfl⟩ := exists_pinIndex_eq hlt
    exact ⟨_, run_midCommand hq hnr k fun i _ => h i, s.readPin_afterWrites t hj⟩
  · refine ⟨_, run_command_of_writesSucceed hq hnr h, fun i => ?_⟩
    rw [if_pos (pinIndex_lt_four i), State.conclude_commit_of_writesSucceed h]
    rfl

/-- A commit neither reads SEQ nor the host's inputs, and its end leaves SEQ idle whatever it was. -/
theorem State.conclude_commit_of_other_seq (s : State) (q : Seq) (l : List HostEdge) (t : Pins) :
    State.conclude (State.commit t { s with seq := q, env := { s.env with inputs := l } }) =
      { State.conclude (s.commit t) with env := { (State.conclude (s.commit t)).env with inputs := l } } := by
  obtain ⟨h, h'⟩ | ⟨_, _, _, h, h'⟩ :=
    State.succeed_or_fail_alike (s := s) (s' := { s with seq := q, env := { s.env with inputs := l } }) (t := t)
      fun _ => rfl
  · rw [State.conclude_commit_of_writesSucceed h, State.conclude_commit_of_writesSucceed h']
    rfl
  · rw [State.conclude_commit_of_failsFirstAt h, State.conclude_commit_of_failsFirstAt h']
    rfl

/-- The state with the responses of the step before off their ports, and no edge gone by. -/
def State.portsCleared (s : State) : State :=
  { s with rsp := none, pwRsp := none }

/-- A whole command from there: the state its commit starts in, STEP having advanced STATE. -/
def State.accepted (op : PinOp) (s : State) : State :=
  match op with
  | .step => s.portsCleared.advance
  | .stop => s.portsCleared

theorem exec_of_opOf {i : Instr} {op : PinOp} (h : opOf i = some op) (s : State) :
    exec i s.portsCleared = .next (State.conclude ((s.accepted op).commit (s.target op))) := by
  cases i <;> cases h <;> rfl

/-- The command opened at the edge starts its commit in the same state, but for SEQ and that edge. -/
theorem State.openCommand_atEdge (op : PinOp) (s : State) :
    s.atEdge.openCommand op =
      { s.accepted op with
        seq := .busy op .a (s.target op)
        env := { (s.accepted op).env with inputs := s.env.inputs.tail } } := by
  cases op <;> rfl

/-- Settles O47: STEP and STOP are opened at the first edge and then run to the end of the same commit; SET_DIRECTION
is over at the first edge. -/
theorem pinWriteGrainAgreesWithWholeCommand : Obligations.PinWriteGrainAgreesWithWholeCommand := by
  intro s hq hg hv hnr
  have hr : s.edge.rst = false := hnr.rst (by decide)
  cases hop : opOf (decodeCmd s.edge.cmd) with
  | some op =>
    have hleft : (s.atEdge.openCommand op).noResetFor 4 := hnr.tail (by rw [State.openCommand_env]; rfl)
    obtain ⟨n, hpos, hn, hrun⟩ := run_command (s.atEdge.openCommand_seq op) hleft
    refine ⟨n + 1, _, by omega, by omega, exec_of_opOf hop s, ?_⟩
    have htarget : s.atEdge.target op = s.target op := by cases op <;> rfl
    rw [run_succ (step_of_open hr hq hv hg hop), hrun, htarget, State.openCommand_atEdge,
      State.conclude_commit_of_other_seq, ← List.drop_tail]
    rfl
  | none =>
    obtain ⟨hw, hi⟩ | ⟨hw, hi⟩ | ⟨d, hw, hi⟩ := decodeCmd_cases s.edge.cmd
    · rw [hi] at hop; cases hop
    · rw [hi] at hop; cases hop
    · have hstep := step_of_exec hr hq hv (.inr hop)
      rw [hi] at hstep
      refine ⟨1, _, le_rfl, by decide, by rw [decode, hi]; exact exec_setDirection d _, ?_⟩
      rw [run_succ hstep, run_zero, List.drop_one]
      rfl

end Sys2Proof.Machine
end

section
/-!
SUPPORT. Renaming the failure reasons (R7 `Reason`, R104): each operation commutes with it, as long as the platform's
answers it uses are listed.
-/

namespace Sys2Proof.Machine

theorem resultOf_renameAnswer (f : Reason → Reason) (x : PadAnswer) :
    resultOf (renameAnswer f x) = renameResult f (resultOf x) := by
  cases x <;> rfl

theorem levelAfter_renameAnswer (f : Reason → Reason) (v : Level) (x : PadAnswer) :
    levelAfter v (renameAnswer f x) = levelAfter v x := by
  cases x <;> rfl

/-- A listed answer is renamed with the state. -/
theorem State.padAnswer_renameReasons (f : Reason → Reason) {s : State} (h : 0 < s.env.pads.length) (i : Pin)
    (v : Level) : (s.renameReasons f).padAnswer i v = renameAnswer f (s.padAnswer i v) := by
  simp [State.padAnswer, State.answer, h]

theorem State.recordWrite_renameReasons (f : Reason → Reason) (s : State) (i : Pin) (v : Level) (x : PadAnswer) :
    (s.renameReasons f).recordWrite i v (renameAnswer f x) = (s.recordWrite i v x).renameReasons f := by
  simp [State.recordWrite, State.renameReasons, Env.afterRequests, renameEvent, resultOf_renameAnswer,
    levelAfter_renameAnswer]

theorem State.respond_renameReasons (f : Reason → Reason) (s : State) (r : Response) :
    (s.renameReasons f).respond (renameResponse f r) = (s.respond r).renameReasons f := by
  simp [State.respond, State.renameReasons]

/-- The commit loop, by induction on the pins left to write, each of which uses up one of the listed answers. -/
theorem State.commitPins_renameReasons (f : Reason → Reason) (t : Pins) (l : List Pin) {s : State}
    (h : l.length ≤ s.env.pads.length) :
    (s.renameReasons f).commitPins t l = ((s.commitPins t l).1.map f, (s.commitPins t l).2.renameReasons f) := by
  induction l generalizing s with
  | nil => rfl
  | cons i rest ih =>
    rw [List.length_cons] at h
    have hx := State.padAnswer_renameReasons f (Nat.zero_lt_of_lt h) i (readPin t i)
    have hwrite := s.recordWrite_renameReasons f i (readPin t i) (s.padAnswer i (readPin t i))
    cases hans : s.padAnswer i (readPin t i) <;> rw [hans] at hx hwrite
    · have hrest : rest.length ≤ (s.recordWrite i (readPin t i) .ok).env.pads.length := by
        simp only [State.recordWrite_env, Env.afterRequests, List.length_drop]
        omega
      rw [State.commitPins_ok rest hans, State.commitPins_ok rest hx, ← ih hrest, ← hwrite]
      rfl
    · rw [State.commitPins_fail rest hans, State.commitPins_fail rest hx, ← hwrite]
      rfl

/-- A whole command writes four pins at most. -/
theorem State.conclude_commit_renameReasons (f : Reason → Reason) (t : Pins) {s : State} (h : 4 ≤ s.env.pads.length) :
    State.conclude ((s.renameReasons f).commit t) = (State.conclude (s.commit t)).renameReasons f := by
  rw [State.commit, State.commitPins_renameReasons f t writeOrder h, ← State.commit]
  unfold State.conclude
  cases (s.commit t).1 with
  | none => exact State.respond_renameReasons f _ .ok
  | some reason => exact State.respond_renameReasons f _ (.pinWriteError reason)

/-- One request uses one answer. -/
theorem State.request_renameReasons (f : Reason → Reason) {s : State} (h : 4 ≤ s.env.pads.length) (i : Pin)
    (v : Level) :
    (s.renameReasons f).recordWrite i v ((s.renameReasons f).padAnswer i v)
      = (s.recordWrite i v (s.padAnswer i v)).renameReasons f := by
  rw [State.padAnswer_renameReasons f (by omega), State.recordWrite_renameReasons]

/-- Every instruction. -/
theorem exec_renameReasons (f : Reason → Reason) (i : Instr) {s t : State} (h : 4 ≤ s.env.pads.length)
    (ht : exec i s = .next t) : exec i (s.renameReasons f) = .next (t.renameReasons f) := by
  cases i with
  | step => cases ht; exact congrArg _ (State.conclude_commit_renameReasons f _ (s := s.advance) h)
  | stop => cases ht; exact congrArg _ (State.conclude_commit_renameReasons f _ h)
  | setDirection d => cases ht; exact congrArg _ (State.respond_renameReasons f (s.setDir d) .ok)
  | pinSetLow sel => cases ht; exact congrArg _ (State.request_renameReasons f h sel false)
  | pinSetHigh sel => cases ht; exact congrArg _ (State.request_renameReasons f h sel true)

theorem State.requestDone_renameReasons (f : Reason → Reason) (op : PinOp) (k : Pin) (t : Pins) (s : State) :
    (s.renameReasons f).requestDone op k t = (s.requestDone op k t).renameReasons f := by
  unfold State.requestDone
  rw [State.renameReasons_pwRsp]
  cases s.pwRsp with
  | none => rfl
  | some r =>
    cases r with
    | fail reason => exact State.respond_renameReasons f s (.pinWriteError reason)
    | ok =>
      cases pinAfter k with
      | none => exact State.respond_renameReasons f s .ok
      | some k' => rfl

/-- Every step: each way it can go is open to the renamed state too, since neither SEQ nor the host's edge changes. -/
theorem step_renameReasons (f : Reason → Reason) {s t : State} (h : 4 ≤ s.env.pads.length) (ht : step s = .next t) :
    step (s.renameReasons f) = .next (t.renameReasons f) := by
  have hatEdge : (s.renameReasons f).atEdge = s.atEdge.renameReasons f := rfl
  obtain ⟨hr, rfl⟩ | ⟨hr, op, k, u, hq, rfl⟩ | ⟨hr, hq, hv, rfl⟩ | ⟨hr, hq, hv, hg, hexec⟩ |
    ⟨hr, hq, hv, hg, op, hop, rfl⟩ := step_cases ht
  · exact step_of_rst (s := s.renameReasons f) hr
  · rw [step_of_busy (s := s.renameReasons f) hr hq, ← State.requestDone_renameReasons]
    exact congrArg (fun u' : State => Host.Outcome.next (u'.requestDone op k u))
      (State.request_renameReasons f (s := s.atEdge) h k (readPin u k))
  · exact step_of_no_offer (s := s.renameReasons f) hr hq hv
  · rw [step_of_exec (s := s.renameReasons f) hr hq hv hg]
    exact exec_renameReasons f _ (s := s.atEdge) h hexec
  · rw [step_of_open (s := s.renameReasons f) hr hq hv hg hop, hatEdge]
    cases op <;> rfl

/-- Settles O55: every instruction and every step answers a next state, and each commutes with the renaming. -/
theorem reasonsAreOnlyCarried : Obligations.ReasonsAreOnlyCarried := by
  intro f s h
  refine ⟨fun i => ?_, ?_⟩
  · obtain ⟨t, ht⟩ := exec_eq_next i s
    exact ⟨t, ht, exec_renameReasons f i h ht⟩
  · obtain ⟨t, ht⟩ := stepNeverStops s
    exact ⟨t, ht, step_renameReasons f h ht⟩

end Sys2Proof.Machine
end
